-- ==== Sys2Proof/Word.lean ====
section
/-!
DEFINITION. The widths of the words the block handles (00_scope.md R7, R8, R10). All values are unsigned bit vectors,
bit 0 the least significant (R10).
-/
namespace Sys2Proof

/-- A byte on the 8-bit data pins (DQ_BITS = 8, R7). -/
abbrev Byte := BitVec 8

/-- A 30-bit word address of the bus (BUS_ADDR_BITS = 30, R7, R45). -/
abbrev WordAdr := BitVec 30

/-- A 32-bit word of the bus or of the control port (BUS_DATA_BITS = 32, R7). -/
abbrev BusWord := BitVec 32

/-- The 48-bit shift register and the 48-bit command-address packet (SR_BITS = 48, R7). -/
abbrev Packet := BitVec 48

end Sys2Proof
end

