-- ==== Sys2Proof/Syntax.lean ====
section
/-!
DEFINITION. The operations of the block, one constructor per row of opcode_table.json (30_encoding.md R76), and the
inputs of one clock cycle (10_state.md R33).
-/
namespace Sys2Proof

/-- An operation of the operation map (R76). The bits a row's rule ignores are kept as operands, so that encoding an
operation loses no bit of its word (log 12). -/
inductive Instr where
  /-- BUS_READ: `BREQ[31:30] = 11`, a pending request for word `adr` (R74, R136). -/
  | busRead (adr : WordAdr)
  /-- BUS_NOREQ, the row with `cyc = 0`: `stb` and `adr` are ignored (R74, R137). -/
  | busNoreqCyc (stb : Bool) (adr : WordAdr)
  /-- BUS_NOREQ, the row with `cyc = 1` and `stb = 0`: `adr` is ignored (R74, R137). -/
  | busNoreqStb (adr : WordAdr)
  /-- CTRL_WRITE: `CREQ[32] = 1`; the operand is `wdata[4:0]` (R75, R148). -/
  | ctrlWrite (wdata : BusWord)
  /-- CTRL_READ: `CREQ[32] = 0`; `wdata` is ignored (R75, R149). -/
  | ctrlRead (wdata : BusWord)
  /-- CA_READ_LINEAR: the 48-bit packet the block transmits to the device, with its two address fields (R64, R70). -/
  | caReadLinear (upper : BitVec 29) (lower : BitVec 2)
  deriving DecidableEq, Repr

/-- The inputs of one clock cycle (R33). They are constant for the whole cycle (92_eei_decisions.md D2). -/
structure Inputs where
  /-- primary reset, active high (R172) -/
  rst : Bool
  /-- bus: cycle-select -/
  cyc : Bool
  /-- bus: strobe -/
  stb : Bool
  /-- bus: word address -/
  adr : WordAdr
  /-- bus: byte granularity, read by no rule (R71) -/
  sel : BitVec 4
  /-- control port: write strobe of LATENCY_CFG -/
  ctrlWe : Bool
  /-- control port: write data of LATENCY_CFG -/
  ctrlWdata : BusWord
  /-- data-input pins, `PinIn()` of R13 -/
  dqI : Byte
  /-- ready/data-strobe input, read by no rule (R83) -/
  rwdsI : Bool
  deriving DecidableEq, Repr, Inhabited

/-- A cycle with no reset, no request and no control write; pins at 0 (a WAIT cycle of R85; the pin values are the
model's own, log 5). -/
def Inputs.quiet : Inputs :=
  { rst := false, cyc := false, stb := false, adr := 0, sel := 0, ctrlWe := false, ctrlWdata := 0, dqI := 0,
    rwdsI := false }

end Sys2Proof
end

