-- ==== Sys2Proof/WellFormed.lean ====
section
/-!
DEFINITION. Which terms of `Instr` stand for an operation the block can meet. Every bus and control word is legal at
its port (30_encoding.md R77); a packet is one the block can transmit only if its upper address is a zero-extended
28-bit field (R66).
-/
namespace Sys2Proof

/-- The packet's upper address is `zext_29` of at most 28 address bits, so `CA[44] = 0` (R66). -/
def upperIsZeroExtended (upper : BitVec 29) : Bool :=
  upper.extractLsb' 28 1 == 0#1

/-- Well-formed operations (R66, R77). -/
def Instr.wellFormed : Instr → Bool
  | .busRead _ => true
  | .busNoreqCyc _ _ => true
  | .busNoreqStb _ => true
  | .ctrlWrite _ => true
  | .ctrlRead _ => true
  | .caReadLinear upper _ => upperIsZeroExtended upper

end Sys2Proof
end

