-- ==== Sys2Proof/Decode.lean ====
section
/-!
DEFINITION. The word formats BREQ (32 bits), CREQ (33 bits) and CA (48 bits) of 30_encoding.md (R64, R74, R75), the
decoder from them (R76), rejecting by name, and the encoder, both written from the fields of those rules.
-/
namespace Sys2Proof

/-- A word of one of the three formats (R64, R74, R75). -/
inductive PortWord where
  /-- `{ cyc, stb, adr[29:0] }` (R74) -/
  | breq (w : BitVec 32)
  /-- `{ ctrl_we, ctrl_wdata[31:0] }` (R75) -/
  | creq (w : BitVec 33)
  /-- the command-address packet (R64) -/
  | ca (w : Packet)
  deriving DecidableEq, Repr

/-- Why the decoder refuses bits. -/
inductive DecodeError where
  /-- no format has this many bits (in whole bytes) -/
  | noFormatOfWidth (nbits : Nat)
  /-- a bit above the format's width is set -/
  | bitsAboveTheWord (nbits : Nat)
  /-- `CA[47:45]` is not read, memory space, linear (R65) -/
  | caNotReadMemoryLinear
  /-- the reserved field `CA[15:3]` is not zero (R67) -/
  | caReservedNotZero
  /-- the address LSB `CA[0]` is not zero (R69) -/
  | caAddressLsbNotZero
  deriving DecidableEq, Repr

/-- The bus operation of a request word (R74, R76): every word is one (R77). -/
def decodeBreq (w : BitVec 32) : Instr :=
  if w.getLsbD 31 then
    if w.getLsbD 30 then .busRead (w.extractLsb' 0 30) else .busNoreqStb (w.extractLsb' 0 30)
  else .busNoreqCyc (w.getLsbD 30) (w.extractLsb' 0 30)

/-- The control operation of a control word (R75, R76): every word is one. -/
def decodeCreq (w : BitVec 33) : Instr :=
  if w.getLsbD 32 then .ctrlWrite (w.extractLsb' 0 32) else .ctrlRead (w.extractLsb' 0 32)

/-- The packet's operation (R64 to R69). -/
def decodeCa (w : Packet) : Except DecodeError Instr :=
  if w.extractLsb' 45 3 ≠ 0b101#3 then .error .caNotReadMemoryLinear
  else if w.extractLsb' 3 13 ≠ 0#13 then .error .caReservedNotZero
  else if w.extractLsb' 0 1 ≠ 0#1 then .error .caAddressLsbNotZero
  else .ok (.caReadLinear (w.extractLsb' 16 29) (w.extractLsb' 1 2))

/-- The operation of a word of any format (R76). -/
def decode : PortWord → Except DecodeError Instr
  | .breq w => .ok (decodeBreq w)
  | .creq w => .ok (decodeCreq w)
  | .ca w => decodeCa w

/-- The word that `nbits` bits (in whole bytes) with value `w` are: 32 bits a BREQ, 33 bits in 5 bytes a CREQ, 48 bits
a packet. The formats have no bits in common at the hardware, so the width tells them apart (log 13).
DESIGN CHOICE (log 13): R78 gives each format one width only and says nothing of other widths. Here a width that no
format has is widened to the next one that some format has, the bits above being 0 (up to 32 a BREQ, 33 to 40 a CREQ, 41
to 48 a packet); and `w` is bounded by the format's width, not by `nbits`. -/
def portWordOfBits (nbits w : Nat) : Except DecodeError PortWord :=
  if nbits ≤ 32 then
    if w < 2 ^ 32 then .ok (.breq (BitVec.ofNat 32 w)) else .error (.bitsAboveTheWord nbits)
  else if nbits ≤ 40 then
    if w < 2 ^ 33 then .ok (.creq (BitVec.ofNat 33 w)) else .error (.bitsAboveTheWord nbits)
  else if nbits ≤ 48 then
    if w < 2 ^ 48 then .ok (.ca (BitVec.ofNat 48 w)) else .error (.bitsAboveTheWord nbits)
  else .error (.noFormatOfWidth nbits)

/-- The decoder on bits. -/
def decodeBits (nbits w : Nat) : Except DecodeError Instr :=
  match portWordOfBits nbits w with
  | .ok p => decode p
  | .error e => .error e

/-- The number a list of bytes stands for, most significant byte first (the order a packet travels in, R50). -/
def bytesToNat (bytes : List Byte) : Nat :=
  bytes.foldl (fun n b => 256 * n + b.toNat) 0

/-- The decoder on bytes, most significant first: total, four bytes are a BREQ, five a CREQ, six a packet, and any other
number is refused (log 13). -/
def decodeBytes (bytes : List Byte) : Except DecodeError Instr :=
  if bytes.length < 4 then .error (.noFormatOfWidth (8 * bytes.length))
  else decodeBits (8 * bytes.length) (bytesToNat bytes)

/-- The operation read from an opcode-table row's bits, numbered as the table numbers them. -/
def decodeTableWord (nbits w : Nat) : Option Instr :=
  match decodeBits nbits w with
  | .ok i => some i
  | .error _ => none

/-- The word of an operation (R64, R74, R75). -/
def encode : Instr → PortWord
  | .busRead adr => .breq (0b11#2 ++ adr)
  | .busNoreqCyc stb adr => .breq (0#1 ++ BitVec.ofBool stb ++ adr)
  | .busNoreqStb adr => .breq (0b10#2 ++ adr)
  | .ctrlWrite wdata => .creq (1#1 ++ wdata)
  | .ctrlRead wdata => .creq (0#1 ++ wdata)
  | .caReadLinear upper lower => .ca (0b101#3 ++ upper ++ 0#13 ++ lower ++ 0#1)

/-- The format's width in whole bytes, in bits. -/
def PortWord.nbits : PortWord → Nat
  | .breq _ => 32
  | .creq _ => 40
  | .ca _ => 48

/-- The word as a number, bit 0 its least significant bit. -/
def PortWord.toNat : PortWord → Nat
  | .breq w => w.toNat
  | .creq w => w.toNat
  | .ca w => w.toNat

/-- A row of opcode_table.json: its width in whole bytes, its mask and its match. -/
structure TableRow where
  nbits : Nat
  mask : Nat
  value : Nat
  deriving DecidableEq, Repr

/-- The six rows of opcode_table.json, in its order. -/
def opcodeTable : List TableRow :=
  [⟨32, 0xC0000000, 0xC0000000⟩, ⟨32, 0x80000000, 0x00000000⟩, ⟨32, 0xC0000000, 0x80000000⟩,
   ⟨40, 0x100000000, 0x100000000⟩, ⟨40, 0x100000000, 0x000000000⟩, ⟨48, 0xE0000000FFF9, 0xA00000000000⟩]

/-- Two rows match no word in common: they differ in width, or in a bit both masks hold. -/
def TableRow.disjoint (r q : TableRow) : Bool :=
  r.nbits != q.nbits || (r.mask &&& q.mask &&& (r.value ^^^ q.value)) != 0

/-- The word is one of the row's: of its width, and equal to its value on its mask. -/
def PortWord.inRow (p : PortWord) (r : TableRow) : Bool :=
  r.nbits == p.nbits &&
    match p with
    | .breq w => w &&& BitVec.ofNat 32 r.mask == BitVec.ofNat 32 r.value
    | .creq w => w &&& BitVec.ofNat 33 r.mask == BitVec.ofNat 33 r.value
    | .ca w => w &&& BitVec.ofNat 48 r.mask == BitVec.ofNat 48 r.value

/-- The row of an operation. -/
def Instr.row : Instr → TableRow
  | .busRead _ => ⟨32, 0xC0000000, 0xC0000000⟩
  | .busNoreqCyc _ _ => ⟨32, 0x80000000, 0x00000000⟩
  | .busNoreqStb _ => ⟨32, 0xC0000000, 0x80000000⟩
  | .ctrlWrite _ => ⟨40, 0x100000000, 0x100000000⟩
  | .ctrlRead _ => ⟨40, 0x100000000, 0x000000000⟩
  | .caReadLinear _ _ => ⟨48, 0xE0000000FFF9, 0xA00000000000⟩

end Sys2Proof
end

