-- ==== Sys2Proof/Config.lean ====
section
/-!
DEFINITION. What an implementation fixes: the constants of 00_scope.md R7, the OPEN instantiation parameters of R9, and
the free values of the model (93_implementation_defined.md, treatment `any value`), which are opaque: nothing can be
proved of the value of one.
-/
namespace Sys2Proof

/-- Counter load on leaving IDLE (R7, R89): the six bytes of the packet. -/
def Config.caLoad : BitVec 8 := 6

/-- Counter load on entering SHIFT_DAT (R7, R94, R100): the four bytes of a word. -/
def Config.dataLoad : BitVec 8 := 4

/-- Wait-counter load in ACK_XFER (R7, R97). -/
def Config.waitNextLoad : BitVec 4 := 9

/-- Width of the page field of the word address (PAGE_BITS, R7). -/
def Config.pageBits : Nat := 6

/-- The instantiation parameters of R9 (OPEN: the model takes them as arguments; log 1). -/
structure Params where
  /-- N_CS: number of memory devices, the width of the chip-select vector -/
  nCs : Nat
  /-- DEV_WORD_BITS: low word-address bits that address within one device -/
  devWordBits : Nat
  /-- INIT_LATENCY: reset value of the latency register -/
  initLatency : BitVec 5
  /-- CA_STRIP_DEVICE_BITS: whether the device bits are left out of the packet's upper address -/
  caStripDeviceBits : Bool
  deriving DecidableEq, Repr

/-- The ranges and the constraint of R9. (INIT_LATENCY is in 0..31 by its width.) -/
abbrev Params.Valid (p : Params) : Prop :=
  1 ≤ p.nCs ∧ Config.pageBits ≤ p.devWordBits ∧ p.devWordBits ≤ 30 ∧ p.nCs ≤ 2 ^ (30 - p.devWordBits)

/-- The common parameters of 95_test_vectors.md. DESIGN CHOICE for `State.reset` only (log 1). -/
def Params.testVectors : Params :=
  { nCs := 2, devWordBits := 21, initLatency := 16, caStripDeviceBits := false }

/-- Free value: `sr` after a reset cycle, by cycle number (R178, I5; log 3). -/
opaque Config.freeSr : Nat → Packet

/-- Free value: `last_adr` after a reset cycle, by cycle number (R178, I5; log 3). -/
opaque Config.freeLastAdr : Nat → WordAdr

/-- Free value: the inputs of a cycle for which no script entry is placed, by cycle number (R17, R33, I6; log 4). -/
opaque Config.freeInputs : Nat → Inputs

end Sys2Proof
end

