-- ==== Sys2Proof/Machine/State.lean ====
section
/-!
DEFINITION. The state of the block: the nine registers of 10_state.md R20 as plain data, with the model's own fields
(the parameters of R9, the inputs of coming cycles, the cycle number, the outputs of the last cycle), the fault reasons
of 60_exceptions.md R157, and the state after reset (70_reset_and_hazards.md R173).
-/
namespace Sys2Proof.Machine

/-- The Command Sequencer's state register, six values without an encoding (R21, R84). -/
inductive SeqState where
  | idle
  | waitCa
  | waitLat
  | shiftDat
  | ackXfer
  | waitNext
  deriving DecidableEq, Repr

/-- A vector with one bit per memory device (R24): a width and that many bits, because the width is the parameter N_CS
(log 9). -/
structure ChipSelects where
  width : Nat
  bits : BitVec width
  deriving DecidableEq, Repr

/-- The outputs of one clock cycle (R34). The clock pins have one value in the first half of the cycle and one in the
second (R116). -/
structure Outputs where
  /-- acknowledgment (R135) -/
  ack : Bool
  /-- read data (R127) -/
  datR : BusWord
  /-- control-port read data (R149) -/
  ctrlRdata : BusWord
  /-- `ck_p` before phase N of the cycle (R116) -/
  ckPFirst : Bool
  /-- `ck_n` before phase N of the cycle -/
  ckNFirst : Bool
  /-- `ck_p` after phase N of the cycle (R116) -/
  ckPSecond : Bool
  /-- `ck_n` after phase N of the cycle -/
  ckNSecond : Bool
  /-- chip-select pins, active low (R80) -/
  csN : ChipSelects
  /-- reset output, active low (R81) -/
  resetN : Bool
  /-- data-output pins (R126), driven when `dqOe` -/
  dqO : Byte
  /-- output-enable of the data pins (R82) -/
  dqOe : Bool
  /-- ready/data-strobe output (R83) -/
  rwdsO : Bool
  /-- output-enable of the ready/data-strobe (R83) -/
  rwdsOe : Bool
  deriving DecidableEq, Repr

/-- The state. The first nine fields are the registers of R20; the other four are the model's own (INVENTORY.md). -/
@[ext]
structure State where
  /-- sequencer state (R21) -/
  state : SeqState
  /-- cycle counter (R22) -/
  counter : BitVec 8
  /-- wait counter (R23) -/
  wcount : BitVec 4
  /-- chip-select vector, N_CS bits, 1 = selected (R24) -/
  cs : ChipSelects
  /-- output-enable of the data pins (R25) -/
  dqOe : Bool
  /-- shift register (R26) -/
  sr : Packet
  /-- latched address (R27) -/
  lastAdr : WordAdr
  /-- latency parameter, LATENCY_CFG (R28, R32) -/
  latency : BitVec 5
  /-- derived clock (R29) -/
  ck : Bool
  /-- the instantiation parameters (R9; log 1); no step changes them -/
  params : Params
  /-- the inputs placed for coming cycles, oldest first; with none placed a cycle's inputs are free (log 4) -/
  script : List Inputs
  /-- the number of cycles run, which indexes the free values (log 3) -/
  cycle : Nat
  /-- the outputs of the cycle that ran last, none before the first (R15, R34; log 8) -/
  out : Option Outputs
  deriving DecidableEq, Repr

/-- The fault reasons of R157, with the recorded info of its table. Neither is a signal of the hardware (R14). -/
inductive Fault where
  /-- Code 1, raised when IDLE accepts a request whose device index is N_CS or more (R90); records `in.adr`.
  Safe: the model stops where the source gives no behaviour (D9). -/
  | unmappedDevice (adr : WordAdr)
  /-- Code 2, raised at the WAIT_CA exit with latency 0 (R93); records `latency` and `last_adr`.
  Safe: the model stops where the source gives no behaviour (D17). -/
  | latencyZero (latency : BitVec 5) (lastAdr : WordAdr)
  deriving DecidableEq, Repr

/-- The codes of R157's table: the spec's own numbering, held by no register. -/
def Fault.code : Fault → Nat
  | .unmappedDevice _ => 1
  | .latencyZero _ _ => 2

/-- Refusals. The step is total (R15), so none is raised; the constructor is the host interface's. -/
inductive Refusal where
  /-- An operation without a meaning yet: raised by an arm of `exec` only; no arm raises it. Safe. -/
  | notModelled (mnemonic : String)
  deriving DecidableEq, Repr

/-- The values after reset of R173, for given parameters and given values of `sr` and `last_adr`, which R173 leaves
unspecified. -/
def State.resetWith (p : Params) (sr : Packet) (lastAdr : WordAdr) : State :=
  { state := .idle, counter := 0, wcount := 0, cs := ⟨p.nCs, 0#p.nCs⟩, dqOe := false, sr := sr, lastAdr := lastAdr,
    latency := p.initLatency, ck := false, params := p, script := [], cycle := 0, out := none }

/-- The machine right after reset (R173), with the parameters of the test vectors (DESIGN CHOICE, log 1) and `sr` and
`last_adr` at 0 (DESIGN CHOICE, log 2). -/
def State.reset : State :=
  State.resetWith Params.testVectors 0 0

end Sys2Proof.Machine
end

