-- ==== Sys2Proof/Machine/Operands.lean ====
section
/-!
DEFINITION. The pure functions of the word address (20_memory.md R57): device index, the packet's fields, the packet;
continuation eligibility; and the port words of a cycle's inputs.
-/
namespace Sys2Proof.Machine

/-- The device index `adr[29:DEV_WORD_BITS]`, 0 when DEV_WORD_BITS = 30 (R48, R90). -/
def dev (p : Params) (adr : WordAdr) : Nat :=
  adr.toNat >>> p.devWordBits

/-- A word address whose device exists (R48). -/
def mapped (p : Params) (adr : WordAdr) : Bool :=
  dev p adr < p.nCs

/-- The packet's upper address field (R66): `zext_29(adr[29:2])`, or of the within-device bits
`adr[DEV_WORD_BITS-1:2]` when CA_STRIP_DEVICE_BITS. -/
def upperAddress (p : Params) (adr : WordAdr) : BitVec 29 :=
  if p.caStripDeviceBits then BitVec.ofNat 29 ((adr.toNat % 2 ^ p.devWordBits) / 4)
  else (adr.extractLsb' 2 28).setWidth 29

/-- The packet's lower address field, `adr[1:0]` (R68). -/
def lowerAddress (adr : WordAdr) : BitVec 2 :=
  adr.extractLsb' 0 2

/-- The command-address packet of a word address (R70). Its constant fields are general knowledge of the spec's
(R65; log 11). -/
def caPacket (p : Params) (adr : WordAdr) : Packet :=
  1#1 ++ 0#1 ++ 1#1 ++ upperAddress p adr ++ 0#13 ++ lowerAddress adr ++ 0#1

/-- The packet with given address fields (R64), as the encoder gives it. -/
def packetOf (upper : BitVec 29) (lower : BitVec 2) : Packet :=
  1#1 ++ 0#1 ++ 1#1 ++ upper ++ 0#13 ++ lower ++ 0#1

/-- The address bits above the page field, `adr[29:6]` (R101). -/
def pageOf (adr : WordAdr) : BitVec 24 :=
  adr.extractLsb' 6 24

/-- The low-order page field, `adr[5:0]` (R101). -/
def pageField (adr : WordAdr) : BitVec 6 :=
  adr.extractLsb' 0 6

/-- Continuation eligibility of `a` after the latched address `la` (R101), the addition in 7 bits. -/
def cont (a la : WordAdr) : Bool :=
  pageOf a == pageOf la && (pageField a).setWidth 7 == (pageField la).setWidth 7 + 1

/-- The bus request word of a cycle (R74). -/
def breqOf (inp : Inputs) : BitVec 32 :=
  BitVec.ofBool inp.cyc ++ BitVec.ofBool inp.stb ++ inp.adr

/-- The control word of a cycle (R75). -/
def creqOf (inp : Inputs) : BitVec 33 :=
  BitVec.ofBool inp.ctrlWe ++ inp.ctrlWdata

/-- The inputs with the bus fields a request word gives (R74). -/
def withBreq (inp : Inputs) (w : BitVec 32) : Inputs :=
  { inp with cyc := w.getLsbD 31, stb := w.getLsbD 30, adr := w.extractLsb' 0 30 }

/-- The inputs with the control fields a control word gives (R75). -/
def withCreq (inp : Inputs) (w : BitVec 33) : Inputs :=
  { inp with ctrlWe := w.getLsbD 32, ctrlWdata := w.extractLsb' 0 32 }

end Sys2Proof.Machine
end

