-- ==== Sys2Proof/Machine/Flags.lean ====
section
/-!
DEFINITION. The block has no flags, condition codes or predicates (10_state.md R31): there is no flag computation.
This file names the conditions the rules test instead.
-/
namespace Sys2Proof.Machine

/-- A request is pending: `cyc` and `stb` both asserted (R71). `sel` is ignored. -/
def pending (inp : Inputs) : Bool :=
  inp.cyc && inp.stb

/-- An active cycle: the cycle counter is non-zero (R125, 92_eei_decisions.md D5). -/
def active (s : State) : Bool :=
  s.counter != 0

/-- The exit condition of WAIT_CA, WAIT_LAT and SHIFT_DAT: the counter is 1 (R91, R94, R96; 90_conflicts.md C1). -/
def lastCount (s : State) : Bool :=
  s.counter == 1

/-- The wait window expires in this cycle: its decrement reaches 0 (R100; 90_conflicts.md C15). -/
def windowExpires (s : State) : Bool :=
  s.wcount ≤ 1

/-- Some chip-select is active (R114). -/
def anySelected (s : State) : Bool :=
  decide (s.cs.bits ≠ 0)

/-- A request is accepted in this cycle (R111): a predicate of the model, not an output. -/
def accepted (inp : Inputs) (s : State) : Bool :=
  pending inp && (s.state == .idle || (s.state == .waitNext && cont inp.adr s.lastAdr))

/-- The first WAIT_CA cycle, in which the transmission of a packet starts (R91, R129). -/
def packetStarts (s : State) : Bool :=
  s.state == .waitCa && s.counter == Config.caLoad

/-- The sequencer is in a state that examines the bus inputs (R110). -/
def examinesBus (s : State) : Bool :=
  s.state == .idle || s.state == .waitNext

end Sys2Proof.Machine
end

