-- ==== Sys2Proof/Machine/Ops.lean ====
section
/-!
DEFINITION. The named register updates the rules are written with, the chip-select vectors, and the inputs of a cycle.
Each update says which registers it writes; every other field stays.

The block takes no exception and has no return from one (60_exceptions.md R156, R162, R163), so there is no exception
entry here; a fault of the model is an outcome of the cycle that writes nothing (R157).
-/
namespace Sys2Proof.Machine

/-- All chip-selects deasserted (R24). -/
def ChipSelects.none (n : Nat) : ChipSelects :=
  ⟨n, 0#n⟩

/-- `onehot_N_CS(d)`: only bit `d` set (R10, R89). -/
def ChipSelects.onehot (n d : Nat) : ChipSelects :=
  ⟨n, BitVec.twoPow n d⟩

/-- The complement, which the pins carry (R80). -/
def ChipSelects.complement (c : ChipSelects) : ChipSelects :=
  ⟨c.width, ~~~c.bits⟩

/-- The inputs of the cycle `k` cycles from now: the script's entry, or a free value where none is placed (R17;
log 4). -/
def State.inputsAt (s : State) (k : Nat) : Inputs :=
  match s.script[k]? with
  | some inp => inp
  | .none => Config.freeInputs (s.cycle + k)

/-- The inputs of the current cycle. -/
def State.inputs (s : State) : Inputs :=
  s.inputsAt 0

/-- `inp` placed as the inputs of the current cycle, in place of what stood there. -/
def State.placeInputs (s : State) (inp : Inputs) : State :=
  { s with script := inp :: s.script.tail }

/-- The packet standing in the shift register (R26, R129). -/
def State.placePacket (s : State) (w : Packet) : State :=
  { s with sr := w }

/-- Phase N's write (R114). -/
def State.setCk (s : State) (level : Bool) : State :=
  { s with ck := level }

/-- The generic actions of an active cycle: the decrement and the one-byte shift (R22, R104, R125). -/
def State.shiftByte (s : State) (b : Byte) : State :=
  { s with counter := s.counter - 1, sr := s.sr.extractLsb' 0 40 ++ b }

/-- The entry actions of IDLE (R89). -/
def State.idleEntry (s : State) : State :=
  { s with cs := ChipSelects.none s.params.nCs, counter := 0, wcount := 0 }

/-- The writes of IDLE's accepting branch (R89). -/
def State.acceptFresh (s : State) (adr : WordAdr) : State :=
  { s with
    cs := ChipSelects.onehot s.params.nCs (dev s.params adr)
    dqOe := true
    sr := caPacket s.params adr
    counter := Config.caLoad
    lastAdr := adr
    state := .waitCa }

/-- The writes of the WAIT_CA exit with latency `l` (R91): the load `2*l - 2`, the output-enable and the state in one
phase (R25, R184). -/
def State.startLatency (s : State) (l : BitVec 5) : State :=
  { s with counter := 2 * l.setWidth 8 - 2, dqOe := false, state := .waitLat }

/-- The writes of the WAIT_LAT exit (R94). -/
def State.startReceive (s : State) : State :=
  { s with sr := 0, counter := Config.dataLoad, state := .shiftDat }

/-- The write of the SHIFT_DAT exit (R96). -/
def State.finishReceive (s : State) : State :=
  { s with state := .ackXfer }

/-- The writes of ACK_XFER (R97). -/
def State.openWindow (s : State) : State :=
  { s with wcount := Config.waitNextLoad, state := .waitNext }

/-- WAIT_NEXT's decrement of the wait counter, stopping at 0 (R23, R100). -/
def State.countWindow (s : State) : State :=
  { s with wcount := if s.wcount ≠ 0 then s.wcount - 1 else s.wcount }

/-- The writes of an accepted continuation (R100): `sr`, `cs`, `dq_oe` and the latency are not touched. -/
def State.acceptContinuation (s : State) (adr : WordAdr) : State :=
  { s with counter := Config.dataLoad, lastAdr := adr, state := .shiftDat }

/-- The writes of both of WAIT_NEXT's ways back to IDLE (R102, R103). -/
def State.releaseToIdle (s : State) : State :=
  { s with cs := ChipSelects.none s.params.nCs, state := .idle }

/-- The latency register's write (R148). -/
def State.writeLatency (s : State) (l : BitVec 5) : State :=
  { s with latency := l }

/-- Phase P of a reset cycle (R104, R172). `sr` and `last_adr` become free values (R178; log 3). -/
def State.resetRegisters (s : State) : State :=
  { s with
    state := .idle
    counter := 0
    wcount := 0
    cs := ChipSelects.none s.params.nCs
    dqOe := false
    latency := s.params.initLatency
    sr := Config.freeSr s.cycle
    lastAdr := Config.freeLastAdr s.cycle }

/-- The end of a cycle: its outputs are recorded, its inputs are spent, the cycle number advances (R15; logs 4, 8). -/
def State.endCycle (s : State) (o : Outputs) : State :=
  { s with out := some o, script := s.script.tail, cycle := s.cycle + 1 }

end Sys2Proof.Machine
end

