-- ==== Sys2Proof/Machine/ClockPhase.lean ====
section
/-!
DEFINITION. The Clock Phase Generator (41_clock_phase.md): phase N, which updates only the derived clock, and the
clock pins.
-/
namespace Sys2Proof.Machine

/-- The level of `ck` after phase N (R114): low in reset (R120) and with no chip-select active, toggled in an active
cycle, held otherwise (R115). -/
def nextCk (inp : Inputs) (s : State) : Bool :=
  if inp.rst then false
  else if !anySelected s then false
  else if active s then !s.ck
  else s.ck

/-- Phase N of a cycle (R11, R114). -/
def phaseN (inp : Inputs) (s : State) : State :=
  s.setCk (nextCk inp s)

/-- `ck_p` for a level of `ck` (R116). -/
def ckP (ck : Bool) : Bool := ck

/-- `ck_n` for a level of `ck` (R116). -/
def ckN (ck : Bool) : Bool := !ck

end Sys2Proof.Machine
end

