-- ==== Sys2Proof/Machine/LatencyStore.lean ====
section
/-!
DEFINITION. The Latency Configuration Store (44_latency_store.md): the control-register write of phase P and the
control-port read data.
-/
namespace Sys2Proof.Machine

/-- The control-register write of phase P (R104, R148): `ctrl_wdata[4:0]` is stored, bits 31:5 are ignored. -/
def controlWrite (inp : Inputs) (s : State) : State :=
  if inp.ctrlWe then s.writeLatency (inp.ctrlWdata.extractLsb' 0 5) else s

/-- The control-port read data, presented in every cycle (R149): `zext_32(latency)`. -/
def ctrlRdata (s : State) : BusWord :=
  s.latency.setWidth 32

end Sys2Proof.Machine
end

