-- ==== Sys2Proof/Machine/ShiftDatapath.lean ====
section
/-!
DEFINITION. The Shift Datapath (42_shift_datapath.md): the active-cycle shift, the two continuous outputs, and the
phase tag.
-/
namespace Sys2Proof.Machine

/-- The generic actions of phase P (R104, R125): in an active cycle the counter is decremented and one byte of the
data-input pins is shifted in; otherwise nothing. -/
def genericActions (inp : Inputs) (s : State) : State :=
  if active s then s.shiftByte inp.dqI else s

/-- The data-output pins: the top byte of `sr` (R126). -/
def dqOut (s : State) : Byte :=
  s.sr.extractLsb' 40 8

/-- The read-data output: the lowest 32 bits of `sr` (R127). -/
def datR (s : State) : BusWord :=
  s.sr.extractLsb' 0 32

/-- The current semantic role of `sr` (R133). -/
inductive SrRole where
  | transmit
  | discard
  | receive
  | result
  | hold
  deriving DecidableEq, Repr

/-- The phase tag: a function of the sequencer state, not extra state (R133). -/
def srRole : SeqState → SrRole
  | .waitCa => .transmit
  | .waitLat => .discard
  | .shiftDat => .receive
  | .ackXfer => .result
  | .waitNext => .hold
  | .idle => .hold

end Sys2Proof.Machine
end

