-- ==== Sys2Proof/Machine/Sequencer.lean ====
section
/-!
DEFINITION. The Command Sequencer (40_sequencer.md): one rule per sequencer state and the phase-P composition.

In every per-state rule `s` holds the values the phase reads (before the phase) and `t` is the state being written,
with the generic actions already in it; so a write of the rule wins over the generic one (R12, R104).
-/
namespace Sys2Proof.Machine

/-- IDLE (R89, R90). -/
def idleStep (inp : Inputs) (s t : State) : Except Fault State :=
  if pending inp then
    if mapped s.params inp.adr then .ok (t.idleEntry.acceptFresh inp.adr)
    else .error (.unmappedDevice inp.adr)
  else .ok t.idleEntry

/-- WAIT_CA (R91, R93). -/
def waitCaStep (s t : State) : Except Fault State :=
  if lastCount s then
    if s.latency = 0 then .error (.latencyZero s.latency s.lastAdr)
    else .ok (t.startLatency s.latency)
  else .ok t

/-- WAIT_LAT (R94); with the counter at 0 it writes nothing for ever (R95). -/
def waitLatStep (s t : State) : Except Fault State :=
  .ok (if lastCount s then t.startReceive else t)

/-- SHIFT_DAT (R96). -/
def shiftDatStep (s t : State) : Except Fault State :=
  .ok (if lastCount s then t.finishReceive else t)

/-- ACK_XFER (R97). -/
def ackXferStep (t : State) : Except Fault State :=
  .ok t.openWindow

/-- WAIT_NEXT (R100, R102, R103). A pending request wins over the window's expiry. -/
def waitNextStep (inp : Inputs) (s t : State) : Except Fault State :=
  .ok (if pending inp then
      if cont inp.adr s.lastAdr then t.countWindow.acceptContinuation inp.adr
      else t.countWindow.releaseToIdle
    else if windowExpires s then t.countWindow.releaseToIdle
    else t.countWindow)

/-- The one per-state rule selected by the sequencer state (R21, R104). -/
def stateStep (inp : Inputs) (s t : State) : Except Fault State :=
  match s.state with
  | .idle => idleStep inp s t
  | .waitCa => waitCaStep s t
  | .waitLat => waitLatStep s t
  | .shiftDat => shiftDatStep s t
  | .ackXfer => ackXferStep t
  | .waitNext => waitNextStep inp s t

/-- Phase P of a cycle (R104): reset overrides everything; else the generic actions, the per-state rule and the
control-register write, in that order. A fault ends the step with nothing written. -/
def phaseP (inp : Inputs) (s : State) : Except Fault State :=
  if inp.rst then .ok s.resetRegisters
  else
    match stateStep inp s (genericActions inp s) with
    | .ok t => .ok (controlWrite inp t)
    | .error f => .error f

end Sys2Proof.Machine
end

