-- ==== Sys2Proof/Machine/BusAdapter.lean ====
section
/-!
DEFINITION. The Bus-Facing Adapter (43_bus_adapter.md), the pins (30_encoding.md R79 to R83), and the clock cycle:
phase N, then phase P, with the cycle's outputs (00_scope.md R11, R15; 10_state.md R34).
-/
namespace Sys2Proof.Machine

/-- The acknowledgment output (R135). -/
def ack (s : State) : Bool :=
  s.state == .ackXfer

/-- The outputs of a cycle that starts in `s` (R34). Each is a function of the state, but `reset_n`, which follows
`rst` (R81); the clock pins change in the middle of the cycle (R116). -/
def outputsOf (inp : Inputs) (s : State) : Outputs :=
  { ack := ack s
    datR := datR s
    ctrlRdata := ctrlRdata s
    ckPFirst := ckP s.ck
    ckNFirst := ckN s.ck
    ckPSecond := ckP (nextCk inp s)
    ckNSecond := ckN (nextCk inp s)
    csN := s.cs.complement
    resetN := !inp.rst
    dqO := dqOut s
    dqOe := s.dqOe
    rwdsO := false
    rwdsOe := false }

/-- One clock cycle with the inputs `inp` (R11, R15): phase N, then phase P, then the cycle ends. A fault ends the run
with no register written (R157, R162). -/
def runCycle (inp : Inputs) (s : State) : Host.Outcome State Fault Refusal :=
  match phaseP inp (phaseN inp s) with
  | .ok t => .next (t.endCycle (outputsOf inp s))
  | .error f => .fault f

/-- The bus operation of the current cycle, read by the decoder from the bus request word (R74, R76). -/
def State.busOperation (s : State) : Instr :=
  decodeBreq (breqOf s.inputs)

/-- The control operation of the current cycle, read by the decoder from the control word (R75, R76). -/
def State.ctrlOperation (s : State) : Instr :=
  decodeCreq (creqOf s.inputs)

/-- The packet whose transmission starts in the current cycle, read by the decoder from the shift register: in the
first WAIT_CA cycle (R91, R129). -/
def State.packetOperation (s : State) : Option Instr :=
  if packetStarts s then
    match decodeCa s.sr with
    | .ok i => some i
    | .error _ => none
  else none

/-- Every operation that takes part in the current cycle (R76: a bus operation and a control operation occur in the
same cycle and are independent; R91: the packet is transmitted by the sequencer). -/
def State.operations (s : State) : List Instr :=
  s.busOperation :: s.ctrlOperation :: s.packetOperation.toList

end Sys2Proof.Machine
end

