-- ==== Sys2Proof/Machine/BusOps.lean ====
section
/-!
DEFINITION. The meanings of the bus operations (43_bus_adapter.md R136, R137): the clock cycle in which the bus port
carries the operation, every other input being the current cycle's own (log 6).
-/
namespace Sys2Proof.Machine

/-- BUS_READ (R136): a cycle with the request for word `adr` pending. -/
def execBusRead (adr : WordAdr) (s : State) : Host.Outcome State Fault Refusal :=
  runCycle { s.inputs with cyc := true, stb := true, adr := adr } s

/-- BUS_NOREQ with `cyc = 0` (R137): a cycle with no request pending. -/
def execBusNoreqCyc (stb : Bool) (adr : WordAdr) (s : State) : Host.Outcome State Fault Refusal :=
  runCycle { s.inputs with cyc := false, stb := stb, adr := adr } s

/-- BUS_NOREQ with `cyc = 1`, `stb = 0` (R137): a cycle with no request pending. -/
def execBusNoreqStb (adr : WordAdr) (s : State) : Host.Outcome State Fault Refusal :=
  runCycle { s.inputs with cyc := true, stb := false, adr := adr } s

end Sys2Proof.Machine
end

