-- ==== Sys2Proof/Machine/CtrlOps.lean ====
section
/-!
DEFINITION. The meanings of the control operations (44_latency_store.md R148, R149): the clock cycle in which the
control port carries the operation, every other input being the current cycle's own (log 6).
-/
namespace Sys2Proof.Machine

/-- CTRL_WRITE (R148): a cycle with the write strobe and the write data. -/
def execCtrlWrite (wdata : BusWord) (s : State) : Host.Outcome State Fault Refusal :=
  runCycle { s.inputs with ctrlWe := true, ctrlWdata := wdata } s

/-- CTRL_READ (R149): a cycle without a control write; the register's value stands on the control port. -/
def execCtrlRead (wdata : BusWord) (s : State) : Host.Outcome State Fault Refusal :=
  runCycle { s.inputs with ctrlWe := false, ctrlWdata := wdata } s

end Sys2Proof.Machine
end

