-- ==== Sys2Proof/Machine/PacketOps.lean ====
section
/-!
DEFINITION. The meaning of CA_READ_LINEAR (30_encoding.md R64 to R70, R76; 40_sequencer.md R91). The packet is no input
of the block: its carrier is the shift register, from which WAIT_CA transmits it (R26, R129; log 7).
-/
namespace Sys2Proof.Machine

/-- CA_READ_LINEAR. In the first WAIT_CA cycle, the only one in which the block meets a packet, it is the cycle with the
packet in the shift register: the packet's first byte is on the data pins and the second one moves up (R91, R126,
R129). In any other cycle no packet starts, and the cycle runs as its ports say (log 7). -/
def execCaReadLinear (upper : BitVec 29) (lower : BitVec 2) (s : State) : Host.Outcome State Fault Refusal :=
  if packetStarts s then runCycle s.inputs (s.placePacket (packetOf upper lower))
  else runCycle s.inputs s

end Sys2Proof.Machine
end

