-- ==== Sys2Proof/Machine/Dispatch.lean ====
section
/-!
DEFINITION. The dispatch: one arm per operation, each one call of its meaning.
-/
namespace Sys2Proof.Machine

def exec (i : Instr) (s : State) : Host.Outcome State Fault Refusal :=
  match i with
  | .busRead adr => Sys2Proof.Machine.execBusRead adr s
  | .busNoreqCyc stb adr => Sys2Proof.Machine.execBusNoreqCyc stb adr s
  | .busNoreqStb adr => Sys2Proof.Machine.execBusNoreqStb adr s
  | .ctrlWrite wdata => Sys2Proof.Machine.execCtrlWrite wdata s
  | .ctrlRead wdata => Sys2Proof.Machine.execCtrlRead wdata s
  | .caReadLinear upper lower => Sys2Proof.Machine.execCaReadLinear upper lower s

end Sys2Proof.Machine
end

