-- ==== Sys2Proof/Machine/Step.lean ====
section
/-!
DEFINITION. The step: one clock cycle, run as its bus operation. The control operation and the packet of the same
cycle take part in that same cycle (`State.operations`); which of them the step is read as makes no difference (log 6).
-/
namespace Sys2Proof.Machine

/-- One step: the bus operation that the current cycle's inputs carry, with whatever else the cycle carries. -/
def step (s : State) : Host.Outcome State Fault Refusal :=
  exec s.busOperation s

/-- The inputs onto which an operation is placed: the script's next entry, or a quiet cycle; not in reset (log 5). -/
def State.placementBase (s : State) : Inputs :=
  match s.script with
  | [] => Inputs.quiet
  | inp :: _ => { inp with rst := false }

/-- `s` with the word `w` standing where its format's operation is met in the next cycle (log 5): a bus request word at
the bus port, a control word at the control port, a packet in the shift register at the start of WAIT_CA, the chip
selected being the one its address names. -/
def State.withFetchWord (s : State) (nbits w : Nat) : State :=
  if nbits ≤ 32 then s.placeInputs (withBreq s.placementBase (BitVec.ofNat 32 w))
  else if nbits ≤ 40 then s.placeInputs (withCreq s.placementBase (BitVec.ofNat 33 w))
  else
    let packet := BitVec.ofNat 48 w
    let adr : WordAdr := packet.extractLsb' 16 28 ++ packet.extractLsb' 1 2
    { ((s.placeInputs s.placementBase).acceptFresh adr) with sr := packet }

end Sys2Proof.Machine
end

