-- ==== Sys2Proof/Safety.lean ====
section
/-!
DEFINITION. The terms the statements use: the invariant of 10_state.md R35 and R36, the condition on which a cycle
raises no fault, what an operation drives, runs of cycles, and states that differ only in sampled data.
-/
namespace Sys2Proof.Machine

/-- The selected device is the mapped device of the latched address, alone (R35, R168). -/
abbrev State.Selected (s : State) : Prop :=
  dev s.params s.lastAdr < s.params.nCs ∧ s.cs = ChipSelects.onehot s.params.nCs (dev s.params s.lastAdr)

/-- The invariant: valid parameters (R9), the table of R35 row by row, the window's bound, and the derived clock's level
before phase N, which is the counter's parity (R36). -/
abbrev State.Inv (s : State) : Prop :=
  s.params.Valid ∧
  (s.state = .idle → s.counter = 0 ∧ s.cs = ChipSelects.none s.params.nCs ∧ s.dqOe = false) ∧
  (s.state = .waitCa → 1 ≤ s.counter ∧ s.counter ≤ 6 ∧ s.Selected ∧ s.dqOe = true) ∧
  (s.state = .waitLat → s.counter ≤ 60 ∧ s.Selected ∧ s.dqOe = false) ∧
  (s.state = .shiftDat → 1 ≤ s.counter ∧ s.counter ≤ 4 ∧ s.Selected ∧ s.dqOe = false) ∧
  (s.state = .ackXfer → s.counter = 0 ∧ s.Selected ∧ s.dqOe = false) ∧
  (s.state = .waitNext → s.counter = 0 ∧ s.Selected ∧ s.dqOe = false ∧ 1 ≤ s.wcount) ∧
  s.wcount ≤ 9 ∧
  s.ck = s.counter.getLsbD 0

/-- The inputs of a cycle that carries the operation `i`: its own port's fields from `i`, the others as given. -/
def drivenBy (i : Instr) (inp : Inputs) : Inputs :=
  match i with
  | .busRead adr => { inp with cyc := true, stb := true, adr := adr }
  | .busNoreqCyc stb adr => { inp with cyc := false, stb := stb, adr := adr }
  | .busNoreqStb adr => { inp with cyc := true, stb := false, adr := adr }
  | .ctrlWrite wdata => { inp with ctrlWe := true, ctrlWdata := wdata }
  | .ctrlRead wdata => { inp with ctrlWe := false, ctrlWdata := wdata }
  | .caReadLinear _ _ => inp

/-- The state of a cycle that carries the operation `i`: a packet stands in the shift register when one starts. -/
def carriedIn (i : Instr) (s : State) : State :=
  match i with
  | .caReadLinear upper lower => if packetStarts s then s.placePacket (packetOf upper lower) else s
  | _ => s

/-- The cycle raises UnmappedDevice (R90, R157). -/
def raisesUnmapped (inp : Inputs) (s : State) : Bool :=
  !inp.rst && s.state == .idle && pending inp && !mapped s.params inp.adr

/-- The cycle raises LatencyZero (R93, R157). -/
def raisesLatencyZero (inp : Inputs) (s : State) : Bool :=
  !inp.rst && s.state == .waitCa && s.counter == 1 && s.latency == 0

/-- The cycle raises no fault (R157). -/
def faultFree (inp : Inputs) (s : State) : Bool :=
  !raisesUnmapped inp s && !raisesLatencyZero inp s

/-- The latency after a cycle without reset (R148, R151). -/
def latencyAfter (inp : Inputs) (s : State) : BitVec 5 :=
  if inp.ctrlWe then inp.ctrlWdata.extractLsb' 0 5 else s.latency

/-- `n` clock cycles from `s`. -/
def runCycles (n : Nat) (s : State) : Host.Outcome State Fault Refusal :=
  Sys2Proof.core.run n s

/-- No reset in the next `n` cycles. -/
abbrev NoReset (n : Nat) (s : State) : Prop :=
  ∀ k, k < n → (s.inputsAt k).rst = false

/-- No request pending in the next `n` cycles. -/
abbrev NoRequest (n : Nat) (s : State) : Prop :=
  ∀ k, k < n → pending (s.inputsAt k) = false

/-- No control-register write in the next `n` cycles. -/
abbrev NoControlWrite (n : Nat) (s : State) : Prop :=
  ∀ k, k < n → (s.inputsAt k).ctrlWe = false

/-- A request for word `adr` pending `k` cycles from now. -/
abbrev Requests (k : Nat) (adr : WordAdr) (s : State) : Prop :=
  pending (s.inputsAt k) = true ∧ (s.inputsAt k).adr = adr

/-- The word whose bytes, most significant first, are on the data pins in the four cycles from `k` on (R49). -/
def wordSampled (k : Nat) (s : State) : BusWord :=
  (s.inputsAt k).dqI ++ (s.inputsAt (k + 1)).dqI ++ (s.inputsAt (k + 2)).dqI ++ (s.inputsAt (k + 3)).dqI

/-- Two cycles' inputs agree but for the pins the device drives and the byte selects (R71, R83). -/
abbrev SameControlInputs (a b : Inputs) : Prop :=
  a.rst = b.rst ∧ a.cyc = b.cyc ∧ a.stb = b.stb ∧ a.adr = b.adr ∧ a.ctrlWe = b.ctrlWe ∧ a.ctrlWdata = b.ctrlWdata

/-- Two states agree but for sampled data: the shift register, the last cycle's outputs, and what the coming cycles'
inputs hold of the device's pins and of the byte selects. -/
structure SameButData (s s' : State) : Prop where
  state : s.state = s'.state
  counter : s.counter = s'.counter
  wcount : s.wcount = s'.wcount
  cs : s.cs = s'.cs
  dqOe : s.dqOe = s'.dqOe
  lastAdr : s.lastAdr = s'.lastAdr
  latency : s.latency = s'.latency
  ck : s.ck = s'.ck
  params : s.params = s'.params
  cycle : s.cycle = s'.cycle
  inputs : ∀ k, SameControlInputs (s.inputsAt k) (s'.inputsAt k)

end Sys2Proof.Machine
end

