-- ==== Sys2Proof/Certificates/Slice0/Obligations.lean ====
section
/-!
DEFINITION. The statements for the provers. Each docstring names the rule or the section of spec/ it formalises; where a
clause rests on a choice of the model or on a decision or an inference the spec marks as its own, it says so.
-/
open Sys2Proof Sys2Proof.Machine

/-! ### Encodings -/

/-- R64, R74, R75, R76: decoding a word's encoding gives the operation back, every operand at every value, and the
opcode table's numbering gives it too (the numbering's widths are the model's, log 13); a word that decodes is the
encoding of what it decodes to. -/
def Obligations.DecodeInvertsEncode : Prop :=
  (∀ i : Instr, decode (encode i) = .ok i ∧ decodeTableWord (encode i).nbits (encode i).toNat = some i) ∧
  ∀ (w : PortWord) (i : Instr), decode w = .ok i → encode i = w

/-- The words of vector table E4 of 95_test_vectors.md and of R70's worked examples decode to what they stand for; a
packet with a reserved bit set, or with another constant field, decodes to nothing. -/
def Obligations.SpecWordsDecode : Prop :=
  decode (.breq 0xC0000000#32) = .ok (.busRead 0) ∧
  decode (.breq 0xC0200005#32) = .ok (.busRead 0x200005) ∧
  decode (.breq 0x80000005#32) = .ok (.busNoreqStb 5) ∧
  decode (.breq 0x40000005#32) = .ok (.busNoreqCyc true 5) ∧
  decode (.creq 0x100000007#33) = .ok (.ctrlWrite 7) ∧
  decode (.creq 0x0FFFFFFFF#33) = .ok (.ctrlRead 0xFFFFFFFF) ∧
  decode (.ca 0xA00000010002#48) = .ok (.caReadLinear 1 1) ∧
  decode (.ca 0xAFFFFFFF0006#48) = .ok (.caReadLinear 0x0FFFFFFF 3) ∧
  decode (.ca 0xA00000010008#48) = .error .caReservedNotZero ∧
  decode (.ca 0x200000010002#48) = .error .caNotReadMemoryLinear

/-- R67, R69: the packet that IDLE loads for transmission has zeros in bits 15:3 and in bit 0. -/
def Obligations.TransmittedPacketZeroFields : Prop :=
  ∀ (s : State) (adr : WordAdr), s.state = .idle → s.inputs.rst = false → dev s.params adr < s.params.nCs →
    ∃ t, exec (.busRead adr) s = .next t ∧ t.sr.extractLsb' 3 13 = 0 ∧ t.sr.extractLsb' 0 1 = 0

/-- 30_encoding.md section 1: every field of the packet of a word address, and the packet is the encoding of a
well-formed CA_READ_LINEAR. The constants 101 and the address split are the spec's from general knowledge (R65; C8, D8;
log 11). -/
def Obligations.PacketFields : Prop :=
  ∀ (p : Params) (adr : WordAdr),
    (caPacket p adr).extractLsb' 45 3 = 0b101#3 ∧
    (caPacket p adr).extractLsb' 44 1 = 0#1 ∧
    (caPacket p adr).extractLsb' 3 13 = 0#13 ∧
    (caPacket p adr).extractLsb' 1 2 = adr.extractLsb' 0 2 ∧
    (caPacket p adr).extractLsb' 0 1 = 0#1 ∧
    (p.caStripDeviceBits = false → (caPacket p adr).extractLsb' 16 28 = adr.extractLsb' 2 28) ∧
    (p.caStripDeviceBits = true →
      ((caPacket p adr).extractLsb' 16 29).toNat = adr.toNat % 2 ^ p.devWordBits / 4) ∧
    ∃ i : Instr, i.wellFormed = true ∧ encode i = .ca (caPacket p adr)

/-- 90_conflicts.md C8: with the device bits kept, the packet carries the whole word address, nothing lost. -/
def Obligations.PacketCarriesTheWholeAddress : Prop :=
  ∀ (p q : Params) (a b : WordAdr), p.caStripDeviceBits = false → q.caStripDeviceBits = false →
    caPacket p a = caPacket q b → a = b

/-- 30_encoding.md section 1 (R66): for device 0 the two settings of CA_STRIP_DEVICE_BITS agree. -/
def Obligations.StrippingAgreesOnDeviceZero : Prop :=
  ∀ (p : Params) (adr : WordAdr), p.Valid → dev p adr = 0 →
    caPacket { p with caStripDeviceBits := true } adr = caPacket { p with caStripDeviceBits := false } adr

/-! ### The step -/

/-- A step runs the decoded operation: what the request word, the control word, and in the first WAIT_CA cycle the
packet in the shift register decode to; all of them at once (R76; how one cycle carries several is the model's reading,
logs 6 and 7). -/
def Obligations.StepRunsTheDecodedOperation : Prop :=
  ∀ (s : State) (i : Instr),
    (decode (.breq (breqOf s.inputs)) = .ok i → step s = exec i s) ∧
    (decode (.creq (creqOf s.inputs)) = .ok i → step s = exec i s) ∧
    (s.state = .waitCa → s.counter = 6 → decode (.ca s.sr) = .ok i → step s = exec i s)

/-- A word placed where its format is met is run by the very next step (log 5). -/
def Obligations.PlacedWordIsRun : Prop :=
  ∀ (s : State) (nbits w : Nat) (i : Instr), decodeTableWord nbits w = some i →
    step (s.withFetchWord nbits w) = exec i (s.withFetchWord nbits w)

/-- R157 and R104 (with decisions D9, D17): a cycle faults for exactly the two reasons, with the recorded info; in every
other case it answers a next state, whatever the operation; and it is never refused (R15). -/
def Obligations.CycleFaultsExactlyWhen : Prop :=
  ∀ (i : Instr) (s : State),
    (raisesUnmapped (drivenBy i s.inputs) s = true →
      exec i s = .fault (.unmappedDevice (drivenBy i s.inputs).adr)) ∧
    (raisesLatencyZero (drivenBy i s.inputs) s = true → exec i s = .fault (.latencyZero s.latency s.lastAdr)) ∧
    (faultFree (drivenBy i s.inputs) s = true → ∃ t, exec i s = .next t)

/-! ### Outputs and the derived clock -/

/-- 10_state.md section 4 (R34, with decisions D10, D11, D14 and the pin polarities of general knowledge, log 11): every
output of a cycle, from the state the cycle starts in; `reset_n` follows `rst`. That the outputs are recorded is the
model's (log 8). -/
def Obligations.OutputsOfACycle : Prop :=
  ∀ (i : Instr) (s t : State), exec i s = .next t →
    t.out = some
      { ack := decide (s.state = .ackXfer)
        datR := (carriedIn i s).sr.extractLsb' 0 32
        ctrlRdata := s.latency.setWidth 32
        ckPFirst := s.ck
        ckNFirst := !s.ck
        ckPSecond := t.ck
        ckNSecond := !t.ck
        csN := ⟨s.cs.width, ~~~s.cs.bits⟩
        resetN := !s.inputs.rst
        dqO := (carriedIn i s).sr.extractLsb' 40 8
        dqOe := s.dqOe
        rwdsO := false
        rwdsOe := false }

/-- 41_clock_phase.md, phase N (R114, with decisions D1, D22), in a cycle that carries any operation. -/
def Obligations.DerivedClockUpdate : Prop :=
  ∀ (i : Instr) (s t : State), exec i s = .next t →
    t.ck = (if s.inputs.rst = true then false
      else if s.cs.bits = 0 then false
      else if s.counter ≠ 0 then !s.ck
      else s.ck)

/-- R190: the clock is stopped low whenever no transaction is active, and does not toggle with no chip-select. -/
def Obligations.ClockStoppedWhileNoTransaction : Prop :=
  ∀ (i : Instr) (s t : State), exec i s = .next t →
    (s.cs.bits = 0 → t.ck = false) ∧
    (s.Inv → s.state = .idle ∨ s.state = .ackXfer ∨ s.state = .waitNext → s.ck = false ∧ t.ck = false)

/-! ### The per-state rules, through the operations -/

/-- 40_sequencer.md section 1 (R89, with decision D9 for the fault and general knowledge for the packet, log 11): the IDLE
step. A mapped request is accepted, whatever `sel`; an unmapped one faults; without a request the entry actions leave
the block in IDLE. Every register is named. -/
def Obligations.IdleStep : Prop :=
  ∀ s : State, s.Inv → s.state = .idle → s.inputs.rst = false →
    (∀ adr : WordAdr, dev s.params adr < s.params.nCs →
      (∃ t, exec (.busRead adr) s = .next t ∧ t.state = .waitCa ∧ t.cs = ChipSelects.onehot s.params.nCs (dev s.params adr) ∧
        t.dqOe = true ∧ t.sr = caPacket s.params adr ∧ t.counter = 6 ∧ t.lastAdr = adr ∧ t.wcount = 0 ∧
        t.latency = latencyAfter s.inputs s ∧ t.ck = false ∧ t.params = s.params) ∧
      ∀ sel : BitVec 4, exec (.busRead adr) (s.placeInputs { s.inputs with sel := sel }) = exec (.busRead adr) s) ∧
    (∀ adr : WordAdr, s.params.nCs ≤ dev s.params adr → exec (.busRead adr) s = .fault (.unmappedDevice adr)) ∧
    (∀ (i : Instr) (stb : Bool) (adr : WordAdr), i = .busNoreqCyc stb adr ∨ i = .busNoreqStb adr →
      ∃ t, exec i s = .next t ∧ t.state = .idle ∧ t.cs = ChipSelects.none s.params.nCs ∧ t.counter = 0 ∧ t.wcount = 0 ∧
        t.dqOe = s.dqOe ∧ t.sr = s.sr ∧ t.lastAdr = s.lastAdr ∧ t.latency = latencyAfter s.inputs s ∧ t.ck = false ∧
        t.params = s.params)

/-- 40_sequencer.md section 6 (R100 to R103, with decision D6 for the window): the WAIT_NEXT step. A request for the next
word of the page continues, any other request restarts through IDLE, and without a request the window counts down to
IDLE. Every register is named. -/
def Obligations.WaitNextStep : Prop :=
  ∀ s : State, s.Inv → s.state = .waitNext → s.inputs.rst = false →
    (∀ adr : WordAdr, cont adr s.lastAdr = true →
      ∃ t, exec (.busRead adr) s = .next t ∧ t.state = .shiftDat ∧ t.counter = 4 ∧ t.lastAdr = adr ∧
        t.wcount = s.wcount - 1 ∧ t.cs = s.cs ∧ t.dqOe = s.dqOe ∧ t.sr = s.sr ∧
        t.latency = latencyAfter s.inputs s ∧ t.ck = s.ck ∧ t.params = s.params) ∧
    (∀ adr : WordAdr, cont adr s.lastAdr = false →
      ∃ t, exec (.busRead adr) s = .next t ∧ t.state = .idle ∧ t.cs = ChipSelects.none s.params.nCs ∧ t.counter = 0 ∧
        t.lastAdr = s.lastAdr ∧ t.wcount = s.wcount - 1 ∧ t.dqOe = s.dqOe ∧ t.sr = s.sr ∧
        t.latency = latencyAfter s.inputs s ∧ t.ck = s.ck ∧ t.params = s.params) ∧
    (∀ (i : Instr) (stb : Bool) (adr : WordAdr), i = .busNoreqCyc stb adr ∨ i = .busNoreqStb adr →
      ∃ t, exec i s = .next t ∧ t.state = (if s.wcount = 1 then .idle else .waitNext) ∧
        t.cs = (if s.wcount = 1 then ChipSelects.none s.params.nCs else s.cs) ∧ t.counter = 0 ∧
        t.lastAdr = s.lastAdr ∧ t.wcount = s.wcount - 1 ∧ t.dqOe = s.dqOe ∧ t.sr = s.sr ∧
        t.latency = latencyAfter s.inputs s ∧ t.ck = s.ck ∧ t.params = s.params)

/-- R97: the ACK_XFER step, whatever operation the cycle carries. The acknowledgment is asserted in this one cycle, with
`dat_r` stable, and WAIT_NEXT follows with the window open; every register is named. ACK_XFER is entered only from the
last SHIFT_DAT cycle. -/
def Obligations.AckXferStep : Prop :=
  (∀ (i : Instr) (s : State), s.Inv → s.state = .ackXfer → s.inputs.rst = false →
    ∃ t o, exec i s = .next t ∧ t.state = .waitNext ∧ t.wcount = 9 ∧ t.counter = 0 ∧ t.cs = s.cs ∧ t.dqOe = s.dqOe ∧
      t.sr = s.sr ∧ t.lastAdr = s.lastAdr ∧ t.latency = latencyAfter (drivenBy i s.inputs) s ∧ t.ck = s.ck ∧
      t.params = s.params ∧ t.out = some o ∧ o.ack = true ∧ o.datR = s.sr.extractLsb' 0 32) ∧
  ∀ (i : Instr) (s t : State), exec i s = .next t → t.state = .ackXfer → s.state = .shiftDat ∧ s.counter = 1

/-- 40_sequencer.md section 2, 42_shift_datapath.md (R91, R93, R129; R50 for the order; decisions D5, D17): the WAIT_CA
phase from its first cycle. In its six cycles the six bytes of the register are on the data pins, most significant
first; at the exit latency 0 faults, and any other latency L loads 2L - 2 and releases the pins. -/
def Obligations.WaitCaPhase : Prop :=
  ∀ s : State, s.Inv → s.state = .waitCa → s.counter = 6 → NoReset 6 s →
    (∀ j, j < 6 → ∃ t, runCycles j s = .next t ∧ t.state = .waitCa ∧ t.counter.toNat = 6 - j ∧ t.dqOe = true ∧
      dqOut t = s.sr.extractLsb' (40 - 8 * j) 8) ∧
    ∃ u, runCycles 5 s = .next u ∧
      (u.latency = 0 → step u = .fault (.latencyZero 0 s.lastAdr)) ∧
      (u.latency ≠ 0 → ∃ t, step u = .next t ∧ t.state = .waitLat ∧ t.counter.toNat = 2 * u.latency.toNat - 2 ∧
        t.dqOe = false ∧ t.cs = s.cs ∧ t.lastAdr = s.lastAdr ∧
        t.sr = (s.inputsAt 0).dqI ++ (s.inputsAt 1).dqI ++ wordSampled 2 s)

/-- R94: the WAIT_LAT phase with n cycles to go. It stays exactly n cycles, shifting in every one but the last, whose
clear wins; then SHIFT_DAT with the counter at 4. It is entered only from WAIT_CA, with n = 2L - 2. -/
def Obligations.WaitLatPhase : Prop :=
  (∀ (s : State) (n : Nat), s.Inv → s.state = .waitLat → s.counter.toNat = n → 1 ≤ n → NoReset n s →
    (∀ j, j < n → ∃ t, runCycles j s = .next t ∧ t.state = .waitLat ∧ t.counter.toNat = n - j ∧ t.dqOe = false) ∧
    (∀ j, j + 1 < n → ∃ t u, runCycles j s = .next t ∧ runCycles (j + 1) s = .next u ∧
      u.sr = t.sr.extractLsb' 0 40 ++ (s.inputsAt j).dqI) ∧
    ∃ t, runCycles n s = .next t ∧ t.state = .shiftDat ∧ t.counter = 4 ∧ t.sr = 0 ∧ t.dqOe = false ∧ t.cs = s.cs ∧
      t.lastAdr = s.lastAdr) ∧
  ∀ (i : Instr) (s t : State), exec i s = .next t → t.state = .waitLat → s.state ≠ .waitLat →
    s.state = .waitCa ∧ t.counter.toNat = 2 * s.latency.toNat - 2

/-- R96: the SHIFT_DAT phase. It stays exactly four cycles, each shifting one sampled byte in; then ACK_XFER with the
counter at 0 and the clock stopped. It is entered only from WAIT_LAT or WAIT_NEXT, with the counter at 4. -/
def Obligations.ShiftDatPhase : Prop :=
  (∀ s : State, s.Inv → s.state = .shiftDat → s.counter = 4 → NoReset 4 s →
    (∀ j, j < 4 → ∃ t u, runCycles j s = .next t ∧ runCycles (j + 1) s = .next u ∧ t.state = .shiftDat ∧
      t.counter.toNat = 4 - j ∧ u.sr = t.sr.extractLsb' 0 40 ++ (s.inputsAt j).dqI) ∧
    ∃ t, runCycles 4 s = .next t ∧ t.state = .ackXfer ∧ t.counter = 0 ∧ t.ck = false ∧
      t.sr = s.sr.extractLsb' 0 16 ++ wordSampled 0 s ∧ t.cs = s.cs ∧ t.lastAdr = s.lastAdr ∧ t.dqOe = false) ∧
  ∀ (i : Instr) (s t : State), exec i s = .next t → t.state = .shiftDat → s.state ≠ .shiftDat →
    (s.state = .waitLat ∨ s.state = .waitNext) ∧ t.counter = 4

/-- 40_sequencer.md section 9 (R110, R143): in WAIT_CA, WAIT_LAT, SHIFT_DAT and ACK_XFER the bus inputs are not examined:
every bus operation has the same outcome. -/
def Obligations.BusyBlockIgnoresTheBus : Prop :=
  ∀ (s : State) (a b c : WordAdr) (stb : Bool),
    s.state = .waitCa ∨ s.state = .waitLat ∨ s.state = .shiftDat ∨ s.state = .ackXfer →
    exec (.busRead a) s = exec (.busNoreqCyc stb b) s ∧ exec (.busRead a) s = exec (.busNoreqStb c) s

/-- 43_bus_adapter.md (R137, R71): the two BUS_NOREQ rows act alike in every state, whatever their ignored bits hold. -/
def Obligations.NoRequestFormsAgree : Prop :=
  ∀ (s : State) (stb : Bool) (a b : WordAdr), exec (.busNoreqCyc stb a) s = exec (.busNoreqStb b) s

/-! ### The control register -/

/-- 44_latency_store.md (R148, R150, with decisions D15, D16): unless the cycle faults, CTRL_WRITE completes: bits 4:0
are stored, the old value stands on the control port in this cycle, and every other register ends as in the same cycle
without the write. -/
def Obligations.ControlWriteStoresFiveBits : Prop :=
  ∀ (s : State) (w v : BusWord), s.inputs.rst = false → faultFree s.inputs s = true →
    ∃ t u o, exec (.ctrlWrite w) s = .next t ∧ exec (.ctrlRead v) s = .next u ∧
      t = { u with latency := w.extractLsb' 0 5 } ∧ t.out = some o ∧ o.ctrlRdata = s.latency.setWidth 32

/-- 44_latency_store.md (R149, decision D15): unless the cycle faults, CTRL_READ completes: the control port shows the
latency, zero-extended, and the latency stays. -/
def Obligations.ControlReadShowsTheLatency : Prop :=
  ∀ (s : State) (v : BusWord), s.inputs.rst = false → faultFree s.inputs s = true →
    ∃ t o, exec (.ctrlRead v) s = .next t ∧ t.latency = s.latency ∧ t.out = some o ∧
      o.ctrlRdata.extractLsb' 0 5 = s.latency ∧ o.ctrlRdata.extractLsb' 5 27 = 0

/-- R151: only CTRL_WRITE and reset change the latency. -/
def Obligations.LatencyPersists : Prop :=
  ∀ (i : Instr) (s t : State), exec i s = .next t →
    t.latency = (if s.inputs.rst = true then s.params.initLatency
      else if (drivenBy i s.inputs).ctrlWe = true then (drivenBy i s.inputs).ctrlWdata.extractLsb' 0 5
      else s.latency)

/-- 40_sequencer.md section 2 (R92, decision D16): a control write in the WAIT_CA exit cycle is stored, and not used by
that transaction. -/
def Obligations.LatencyWriteInExitCycleUnused : Prop :=
  ∀ (s : State) (w : BusWord), s.state = .waitCa → s.counter = 1 → s.latency ≠ 0 → s.inputs.rst = false →
    ∃ t, exec (.ctrlWrite w) s = .next t ∧ t.state = .waitLat ∧ t.counter.toNat = 2 * s.latency.toNat - 2 ∧
      t.latency = w.extractLsb' 0 5

/-! ### The packet -/

/-- 40_sequencer.md section 2, 42_shift_datapath.md (R91, R126, R129): CA_READ_LINEAR in the cycle in which its
transmission starts: the packet's first byte is on the data pins, the rest moves up by one byte, and the counter falls.
Every register is named. What the operation means as one cycle is the model's (log 7). -/
def Obligations.PacketTransmissionStarts : Prop :=
  ∀ (s : State) (upper : BitVec 29) (lower : BitVec 2), s.Inv → s.state = .waitCa → s.counter = 6 →
    s.inputs.rst = false →
    ∃ t o w, exec (.caReadLinear upper lower) s = .next t ∧ encode (.caReadLinear upper lower) = .ca w ∧
      t.out = some o ∧ o.dqO = w.extractLsb' 40 8 ∧ o.dqOe = true ∧
      t.sr = w.extractLsb' 0 40 ++ s.inputs.dqI ∧ t.counter = 5 ∧ t.state = .waitCa ∧ t.cs = s.cs ∧ t.dqOe = true ∧
      t.lastAdr = s.lastAdr ∧ t.wcount = s.wcount ∧ t.latency = latencyAfter s.inputs s ∧ t.ck = true ∧
      t.params = s.params

/-- The model's reading (log 7): where no packet starts, a cycle said to carry one is the plain cycle of its ports. -/
def Obligations.PacketElsewhereIsThePlainCycle : Prop :=
  ∀ (s : State) (upper : BitVec 29) (lower : BitVec 2), s.state ≠ .waitCa ∨ s.counter ≠ 6 →
    exec (.caReadLinear upper lower) s = step s

/-! ### Who writes which register (frames) -/

/-- 10_state.md (R24; R80 for the pins is general knowledge, log 11): in a cycle without reset the chip-selects are
written only by IDLE and WAIT_NEXT; under the invariant they have N_CS bits, at most one set. -/
def Obligations.ChipSelectWriters : Prop :=
  ∀ (i : Instr) (s t : State), s.inputs.rst = false → exec i s = .next t →
    (s.state ≠ .idle → s.state ≠ .waitNext → t.cs = s.cs) ∧
    (s.state = .idle → t.cs = (if pending (drivenBy i s.inputs) = true
      then ChipSelects.onehot s.params.nCs (dev s.params (drivenBy i s.inputs).adr)
      else ChipSelects.none s.params.nCs)) ∧
    (s.state = .waitNext → t.cs = (if t.state = .idle then ChipSelects.none s.params.nCs else s.cs)) ∧
    (s.Inv → t.cs.width = s.params.nCs ∧
      ∀ j k, t.cs.bits.getLsbD j = true → t.cs.bits.getLsbD k = true → j = k)

/-- R25: the output-enable is what the pins get; it is set when IDLE accepts and cleared on the WAIT_CA to WAIT_LAT edge,
in the same phase, and by nothing else but reset. -/
def Obligations.OutputEnableWriters : Prop :=
  ∀ (i : Instr) (s t : State), s.inputs.rst = false → exec i s = .next t →
    (∃ o, t.out = some o ∧ o.dqOe = s.dqOe) ∧
    (s.state = .idle ∧ t.state = .waitCa → t.dqOe = true) ∧
    (s.state = .waitCa ∧ t.state = .waitLat → t.dqOe = false) ∧
    (¬ (s.state = .idle ∧ t.state = .waitCa) → ¬ (s.state = .waitCa ∧ t.state = .waitLat) → t.dqOe = s.dqOe)

/-- 10_state.md (R22, R23, R26, R27, with decisions D4, D5, D6), as a frame: in a cycle without reset, whatever operation
it carries, the latched address changes only on acceptance (R111), the wait counter only in IDLE, ACK_XFER and
WAIT_NEXT, the shift register only by IDLE's load, the WAIT_LAT clear and the active-cycle shift, and the counter as R22
says; and no operation changes the inputs of the coming cycles (log 4), which move up by one. For CA_READ_LINEAR in the first
WAIT_CA cycle the register that is shifted holds the operation's packet, which is the model's reading (log 7), not R26's. -/
def Obligations.RegisterWriters : Prop :=
  ∀ (i : Instr) (s t : State), s.inputs.rst = false → exec i s = .next t →
    t.lastAdr = (if accepted (drivenBy i s.inputs) s = true then (drivenBy i s.inputs).adr else s.lastAdr) ∧
    t.wcount = (if s.state = .idle then 0 else if s.state = .ackXfer then 9
      else if s.state = .waitNext ∧ s.wcount ≠ 0 then s.wcount - 1 else s.wcount) ∧
    t.sr = (if s.state = .idle ∧ pending (drivenBy i s.inputs) = true then caPacket s.params (drivenBy i s.inputs).adr
      else if s.state = .waitLat ∧ s.counter = 1 then 0
      else if s.counter ≠ 0 then (carriedIn i s).sr.extractLsb' 0 40 ++ s.inputs.dqI
      else s.sr) ∧
    t.counter = (if s.state = .idle then (if pending (drivenBy i s.inputs) = true then 6 else 0)
      else if s.state = .waitCa ∧ s.counter = 1 then 2 * s.latency.setWidth 8 - 2
      else if s.state = .waitLat ∧ s.counter = 1 then 4
      else if s.state = .waitNext ∧ accepted (drivenBy i s.inputs) s = true then 4
      else if s.counter ≠ 0 then s.counter - 1
      else 0) ∧
    t.params = s.params ∧ ∀ k, t.inputsAt k = s.inputsAt (k + 1)

/-! ### Reset -/

/-- R173, R177: whatever state the block is in and whatever else the cycle carries, a reset cycle answers the values
after reset, and a latency written before is lost; in the next cycle, if out of reset and not faulting, the outputs are
those of R173. (`sr` and `last_adr` are unspecified, and nothing is said of them.) -/
def Obligations.ResetCycle : Prop :=
  ∀ (i : Instr) (s : State), s.inputs.rst = true →
    ∃ t, exec i s = .next t ∧ t.state = .idle ∧ t.counter = 0 ∧ t.wcount = 0 ∧ t.cs = ChipSelects.none s.params.nCs ∧
      t.dqOe = false ∧ t.ck = false ∧ t.latency = s.params.initLatency ∧ t.params = s.params ∧
      ∀ u o, t.inputs.rst = false → step t = .next u → u.out = some o →
        o.ack = false ∧ o.ctrlRdata = s.params.initLatency.setWidth 32 ∧
        o.csN = ⟨s.params.nCs, BitVec.allOnes s.params.nCs⟩ ∧ o.ckPFirst = false ∧ o.ckPSecond = false ∧
        o.resetN = true ∧ o.dqOe = false ∧ o.rwdsOe = false

/-- 70_reset_and_hazards.md section 1: the model's reset state holds the values the spec gives, for any parameters and any
draw of the two registers the spec leaves unspecified. Which parameters and draws `State.reset` takes is the model's
choice (logs 1 and 2), and nothing is said of them. -/
def Obligations.ResetStateValues : Prop :=
  (∀ (p : Params) (sr : Packet) (adr : WordAdr),
    (State.resetWith p sr adr).state = .idle ∧ (State.resetWith p sr adr).counter = 0 ∧
    (State.resetWith p sr adr).wcount = 0 ∧ (State.resetWith p sr adr).cs = ChipSelects.none p.nCs ∧
    (State.resetWith p sr adr).dqOe = false ∧ (State.resetWith p sr adr).ck = false ∧
    (State.resetWith p sr adr).latency = p.initLatency) ∧
  ∃ (p : Params) (sr : Packet) (adr : WordAdr), State.reset = State.resetWith p sr adr

/-- The invariant of 10_state.md section 5 holds right after reset, for any valid parameters and any draw of `sr` and
`last_adr`; the model's own reset state is one of these (its parameters are log 1's choice). -/
def Obligations.ResetSatisfiesTheTable : Prop :=
  (∀ (p : Params) (sr : Packet) (adr : WordAdr), p.Valid → (State.resetWith p sr adr).Inv) ∧ State.reset.Inv

/-! ### Headline results -/

/-- 10_state.md section 5 (R35, R36, inferences the spec marks as its own): the invariant is kept by every step, and by
every operation's cycle, from every state that meets it. -/
def Obligations.StepKeepsTheStateTable : Prop :=
  ∀ (s t : State), s.Inv → (step s = .next t → t.Inv) ∧ ∀ i : Instr, exec i s = .next t → t.Inv

/-- 40_sequencer.md section 8, 20_memory.md section 2 (R105, R49, inferences the spec marks as its own): a request that
IDLE accepts with latency L in 2..31 is acknowledged 2L + 9 cycles later and not before, with the four bytes sampled in
the last four cycles before, the first in bits 31:24. -/
def Obligations.FreshReadIsAcknowledged : Prop :=
  ∀ (s : State) (adr : WordAdr), s.Inv → s.state = .idle → Requests 0 adr s → dev s.params adr < s.params.nCs →
    2 ≤ s.latency → NoControlWrite 6 s → NoReset (2 * s.latency.toNat + 9) s →
    (∃ t, runCycles (2 * s.latency.toNat + 9) s = .next t ∧ t.state = .ackXfer ∧
      datR t = wordSampled (2 * s.latency.toNat + 5) s ∧ t.lastAdr = adr ∧
      t.cs = ChipSelects.onehot s.params.nCs (dev s.params adr)) ∧
    ∀ k, k < 2 * s.latency.toNat + 9 → ∃ t, runCycles k s = .next t ∧ t.state ≠ .ackXfer

/-- 40_sequencer.md section 8 (R106, an inference the spec marks as its own): a continuation that WAIT_NEXT accepts is
acknowledged five cycles later and not before, with the four bytes sampled meanwhile, the chip-select kept. -/
def Obligations.ContinuationIsAcknowledged : Prop :=
  ∀ (s : State) (adr : WordAdr), s.Inv → s.state = .waitNext → Requests 0 adr s → cont adr s.lastAdr = true →
    NoReset 5 s →
    (∃ t, runCycles 5 s = .next t ∧ t.state = .ackXfer ∧ datR t = wordSampled 1 s ∧ t.lastAdr = adr ∧ t.cs = s.cs) ∧
    ∀ k, k < 5 → ∃ t, runCycles k s = .next t ∧ t.state ≠ .ackXfer

/-- 40_sequencer.md section 8 (R107, R102): a mapped request in WAIT_NEXT that is no continuation, held one more cycle,
passes through one IDLE cycle with the chip-selects released and is acknowledged 2L + 10 cycles later. -/
def Obligations.RestartIsAcknowledged : Prop :=
  ∀ (s : State) (adr : WordAdr), s.Inv → s.state = .waitNext → Requests 0 adr s → Requests 1 adr s →
    cont adr s.lastAdr = false → dev s.params adr < s.params.nCs → 2 ≤ s.latency → NoControlWrite 7 s →
    NoReset (2 * s.latency.toNat + 10) s →
    (∃ t, runCycles 1 s = .next t ∧ t.state = .idle ∧ t.cs = ChipSelects.none s.params.nCs) ∧
    ∃ t, runCycles (2 * s.latency.toNat + 10) s = .next t ∧ t.state = .ackXfer ∧
      datR t = wordSampled (2 * s.latency.toNat + 6) s ∧ t.lastAdr = adr

/-- 40_sequencer.md section 8 (R106, R108): a next word of the page requested in the cycle after an acknowledgment is
acknowledged six cycles after it, with the chip-select kept. -/
def Obligations.SequentialReadsSixApart : Prop :=
  ∀ s : State, s.Inv → s.state = .ackXfer → pageField s.lastAdr ≠ 63 → Requests 1 (s.lastAdr + 1) s → NoReset 6 s →
    ∃ t, runCycles 6 s = .next t ∧ t.state = .ackXfer ∧ t.lastAdr = s.lastAdr + 1 ∧ datR t = wordSampled 2 s ∧
      t.cs = s.cs

/-- 40_sequencer.md section 6 (R99, R103, decision D6): with no request in the nine cycles after the acknowledgment's, the
chip-select stays through the ninth and is released in the tenth, in IDLE. -/
def Obligations.WindowExpiresAfterNineCycles : Prop :=
  ∀ s : State, s.Inv → s.state = .ackXfer → NoReset 10 s → (∀ k, 1 ≤ k → k ≤ 9 → pending (s.inputsAt k) = false) →
    (∀ k, 1 ≤ k → k ≤ 9 → ∃ t, runCycles k s = .next t ∧ t.state = .waitNext ∧ t.wcount.toNat = 10 - k ∧ t.cs = s.cs) ∧
    ∃ t, runCycles 10 s = .next t ∧ t.state = .idle ∧ t.cs = ChipSelects.none s.params.nCs ∧ t.wcount = 0

/-- 40_sequencer.md section 3 (R95, an inference the spec marks as its own): in WAIT_LAT with the counter at 0 the
sequencer stays, whatever is requested, for as long as there is no reset. -/
def Obligations.HangLastsUntilReset : Prop :=
  ∀ (s : State) (n : Nat), s.Inv → s.state = .waitLat → s.counter = 0 → NoReset n s →
    ∃ t, runCycles n s = .next t ∧ t.state = .waitLat ∧ t.counter = 0 ∧ t.cs = s.cs ∧ t.sr = s.sr ∧ t.ck = false ∧
      t.wcount = s.wcount ∧ t.dqOe = s.dqOe ∧ t.lastAdr = s.lastAdr

/-- 30_encoding.md, 60_exceptions.md (R83, R159): no transition depends on a pin the device drives, nor on `sel` (R71).
Two states that differ only in sampled data, with inputs that differ only there, fault alike or go on to two such
states. -/
def Obligations.DataPinsDoNotSteer : Prop :=
  ∀ s s' : State, SameButData s s' →
    (∀ f, step s = .fault f ↔ step s' = .fault f) ∧
    (∀ t, step s = .next t → ∃ t', step s' = .next t' ∧ SameButData t t')

/-- R71, R83 (decisions D12, D13): `sel` and `rwds_i` are read by no rule: a cycle with other values of them has the very
same outcome. -/
def Obligations.UnusedInputsHaveNoEffect : Prop :=
  ∀ (i : Instr) (s : State) (sel : BitVec 4) (rwds : Bool),
    exec i (s.placeInputs { s.inputs with sel := sel, rwdsI := rwds }) = exec i s

/-- 40_sequencer.md section 6 (R101, an equivalence the spec marks as its own): a continuation is the next word, and the
latched word is not the last of its page. -/
def Obligations.ContinuationIsTheNextWordOfThePage : Prop :=
  ∀ a la : WordAdr, cont a la = true ↔ a = la + 1 ∧ la.extractLsb' 0 6 ≠ 63#6

/-- 30_encoding.md, 60_exceptions.md (R77, R168, inferences the spec marks as its own): a continuation names the same
device as the latched address; so in WAIT_NEXT an unmapped address is never one. -/
def Obligations.ContinuationKeepsTheDevice : Prop :=
  (∀ (p : Params) (a la : WordAdr), p.Valid → cont a la = true → dev p a = dev p la) ∧
  ∀ (s : State) (a : WordAdr), s.Inv → s.state = .waitNext → s.params.nCs ≤ dev s.params a → cont a s.lastAdr = false
end

