-- ==== Sys2Proof/Laws/State.lean ====
section
/-!
SUPPORT. One lemma per field per named update of the state: what the update writes, and that it leaves every other
field. Proofs cite these and do not unfold an update.
-/
namespace Sys2Proof.Machine.State

section placeInputs
variable (s : State) (inp : Inputs)
@[simp] theorem placeInputs_state : (s.placeInputs inp).state = s.state := rfl
@[simp] theorem placeInputs_counter : (s.placeInputs inp).counter = s.counter := rfl
@[simp] theorem placeInputs_wcount : (s.placeInputs inp).wcount = s.wcount := rfl
@[simp] theorem placeInputs_cs : (s.placeInputs inp).cs = s.cs := rfl
@[simp] theorem placeInputs_dqOe : (s.placeInputs inp).dqOe = s.dqOe := rfl
@[simp] theorem placeInputs_sr : (s.placeInputs inp).sr = s.sr := rfl
@[simp] theorem placeInputs_lastAdr : (s.placeInputs inp).lastAdr = s.lastAdr := rfl
@[simp] theorem placeInputs_latency : (s.placeInputs inp).latency = s.latency := rfl
@[simp] theorem placeInputs_ck : (s.placeInputs inp).ck = s.ck := rfl
@[simp] theorem placeInputs_params : (s.placeInputs inp).params = s.params := rfl
@[simp] theorem placeInputs_script : (s.placeInputs inp).script = inp :: s.script.tail := rfl
@[simp] theorem placeInputs_cycle : (s.placeInputs inp).cycle = s.cycle := rfl
@[simp] theorem placeInputs_out : (s.placeInputs inp).out = s.out := rfl
end placeInputs

section placePacket
variable (s : State) (w : Packet)
@[simp] theorem placePacket_state : (s.placePacket w).state = s.state := rfl
@[simp] theorem placePacket_counter : (s.placePacket w).counter = s.counter := rfl
@[simp] theorem placePacket_wcount : (s.placePacket w).wcount = s.wcount := rfl
@[simp] theorem placePacket_cs : (s.placePacket w).cs = s.cs := rfl
@[simp] theorem placePacket_dqOe : (s.placePacket w).dqOe = s.dqOe := rfl
@[simp] theorem placePacket_sr : (s.placePacket w).sr = w := rfl
@[simp] theorem placePacket_lastAdr : (s.placePacket w).lastAdr = s.lastAdr := rfl
@[simp] theorem placePacket_latency : (s.placePacket w).latency = s.latency := rfl
@[simp] theorem placePacket_ck : (s.placePacket w).ck = s.ck := rfl
@[simp] theorem placePacket_params : (s.placePacket w).params = s.params := rfl
@[simp] theorem placePacket_script : (s.placePacket w).script = s.script := rfl
@[simp] theorem placePacket_cycle : (s.placePacket w).cycle = s.cycle := rfl
@[simp] theorem placePacket_out : (s.placePacket w).out = s.out := rfl
end placePacket

section setCk
variable (s : State) (level : Bool)
@[simp] theorem setCk_state : (s.setCk level).state = s.state := rfl
@[simp] theorem setCk_counter : (s.setCk level).counter = s.counter := rfl
@[simp] theorem setCk_wcount : (s.setCk level).wcount = s.wcount := rfl
@[simp] theorem setCk_cs : (s.setCk level).cs = s.cs := rfl
@[simp] theorem setCk_dqOe : (s.setCk level).dqOe = s.dqOe := rfl
@[simp] theorem setCk_sr : (s.setCk level).sr = s.sr := rfl
@[simp] theorem setCk_lastAdr : (s.setCk level).lastAdr = s.lastAdr := rfl
@[simp] theorem setCk_latency : (s.setCk level).latency = s.latency := rfl
@[simp] theorem setCk_ck : (s.setCk level).ck = level := rfl
@[simp] theorem setCk_params : (s.setCk level).params = s.params := rfl
@[simp] theorem setCk_script : (s.setCk level).script = s.script := rfl
@[simp] theorem setCk_cycle : (s.setCk level).cycle = s.cycle := rfl
@[simp] theorem setCk_out : (s.setCk level).out = s.out := rfl
end setCk

section shiftByte
variable (s : State) (b : Byte)
@[simp] theorem shiftByte_state : (s.shiftByte b).state = s.state := rfl
@[simp] theorem shiftByte_counter : (s.shiftByte b).counter = s.counter - 1 := rfl
@[simp] theorem shiftByte_wcount : (s.shiftByte b).wcount = s.wcount := rfl
@[simp] theorem shiftByte_cs : (s.shiftByte b).cs = s.cs := rfl
@[simp] theorem shiftByte_dqOe : (s.shiftByte b).dqOe = s.dqOe := rfl
@[simp] theorem shiftByte_sr : (s.shiftByte b).sr = s.sr.extractLsb' 0 40 ++ b := rfl
@[simp] theorem shiftByte_lastAdr : (s.shiftByte b).lastAdr = s.lastAdr := rfl
@[simp] theorem shiftByte_latency : (s.shiftByte b).latency = s.latency := rfl
@[simp] theorem shiftByte_ck : (s.shiftByte b).ck = s.ck := rfl
@[simp] theorem shiftByte_params : (s.shiftByte b).params = s.params := rfl
@[simp] theorem shiftByte_script : (s.shiftByte b).script = s.script := rfl
@[simp] theorem shiftByte_cycle : (s.shiftByte b).cycle = s.cycle := rfl
@[simp] theorem shiftByte_out : (s.shiftByte b).out = s.out := rfl
end shiftByte

section idleEntry
variable (s : State)
@[simp] theorem idleEntry_state : s.idleEntry.state = s.state := rfl
@[simp] theorem idleEntry_counter : s.idleEntry.counter = 0 := rfl
@[simp] theorem idleEntry_wcount : s.idleEntry.wcount = 0 := rfl
@[simp] theorem idleEntry_cs : s.idleEntry.cs = ChipSelects.none s.params.nCs := rfl
@[simp] theorem idleEntry_dqOe : s.idleEntry.dqOe = s.dqOe := rfl
@[simp] theorem idleEntry_sr : s.idleEntry.sr = s.sr := rfl
@[simp] theorem idleEntry_lastAdr : s.idleEntry.lastAdr = s.lastAdr := rfl
@[simp] theorem idleEntry_latency : s.idleEntry.latency = s.latency := rfl
@[simp] theorem idleEntry_ck : s.idleEntry.ck = s.ck := rfl
@[simp] theorem idleEntry_params : s.idleEntry.params = s.params := rfl
@[simp] theorem idleEntry_script : s.idleEntry.script = s.script := rfl
@[simp] theorem idleEntry_cycle : s.idleEntry.cycle = s.cycle := rfl
@[simp] theorem idleEntry_out : s.idleEntry.out = s.out := rfl
end idleEntry

section acceptFresh
variable (s : State) (adr : WordAdr)
@[simp] theorem acceptFresh_state : (s.acceptFresh adr).state = .waitCa := rfl
@[simp] theorem acceptFresh_counter : (s.acceptFresh adr).counter = Config.caLoad := rfl
@[simp] theorem acceptFresh_wcount : (s.acceptFresh adr).wcount = s.wcount := rfl
@[simp] theorem acceptFresh_cs : (s.acceptFresh adr).cs = ChipSelects.onehot s.params.nCs (dev s.params adr) := rfl
@[simp] theorem acceptFresh_dqOe : (s.acceptFresh adr).dqOe = true := rfl
@[simp] theorem acceptFresh_sr : (s.acceptFresh adr).sr = caPacket s.params adr := rfl
@[simp] theorem acceptFresh_lastAdr : (s.acceptFresh adr).lastAdr = adr := rfl
@[simp] theorem acceptFresh_latency : (s.acceptFresh adr).latency = s.latency := rfl
@[simp] theorem acceptFresh_ck : (s.acceptFresh adr).ck = s.ck := rfl
@[simp] theorem acceptFresh_params : (s.acceptFresh adr).params = s.params := rfl
@[simp] theorem acceptFresh_script : (s.acceptFresh adr).script = s.script := rfl
@[simp] theorem acceptFresh_cycle : (s.acceptFresh adr).cycle = s.cycle := rfl
@[simp] theorem acceptFresh_out : (s.acceptFresh adr).out = s.out := rfl
end acceptFresh

section startLatency
variable (s : State) (l : BitVec 5)
@[simp] theorem startLatency_state : (s.startLatency l).state = .waitLat := rfl
@[simp] theorem startLatency_counter : (s.startLatency l).counter = 2 * l.setWidth 8 - 2 := rfl
@[simp] theorem startLatency_wcount : (s.startLatency l).wcount = s.wcount := rfl
@[simp] theorem startLatency_cs : (s.startLatency l).cs = s.cs := rfl
@[simp] theorem startLatency_dqOe : (s.startLatency l).dqOe = false := rfl
@[simp] theorem startLatency_sr : (s.startLatency l).sr = s.sr := rfl
@[simp] theorem startLatency_lastAdr : (s.startLatency l).lastAdr = s.lastAdr := rfl
@[simp] theorem startLatency_latency : (s.startLatency l).latency = s.latency := rfl
@[simp] theorem startLatency_ck : (s.startLatency l).ck = s.ck := rfl
@[simp] theorem startLatency_params : (s.startLatency l).params = s.params := rfl
@[simp] theorem startLatency_script : (s.startLatency l).script = s.script := rfl
@[simp] theorem startLatency_cycle : (s.startLatency l).cycle = s.cycle := rfl
@[simp] theorem startLatency_out : (s.startLatency l).out = s.out := rfl
end startLatency

section startReceive
variable (s : State)
@[simp] theorem startReceive_state : s.startReceive.state = .shiftDat := rfl
@[simp] theorem startReceive_counter : s.startReceive.counter = Config.dataLoad := rfl
@[simp] theorem startReceive_wcount : s.startReceive.wcount = s.wcount := rfl
@[simp] theorem startReceive_cs : s.startReceive.cs = s.cs := rfl
@[simp] theorem startReceive_dqOe : s.startReceive.dqOe = s.dqOe := rfl
@[simp] theorem startReceive_sr : s.startReceive.sr = 0 := rfl
@[simp] theorem startReceive_lastAdr : s.startReceive.lastAdr = s.lastAdr := rfl
@[simp] theorem startReceive_latency : s.startReceive.latency = s.latency := rfl
@[simp] theorem startReceive_ck : s.startReceive.ck = s.ck := rfl
@[simp] theorem startReceive_params : s.startReceive.params = s.params := rfl
@[simp] theorem startReceive_script : s.startReceive.script = s.script := rfl
@[simp] theorem startReceive_cycle : s.startReceive.cycle = s.cycle := rfl
@[simp] theorem startReceive_out : s.startReceive.out = s.out := rfl
end startReceive

section finishReceive
variable (s : State)
@[simp] theorem finishReceive_state : s.finishReceive.state = .ackXfer := rfl
@[simp] theorem finishReceive_counter : s.finishReceive.counter = s.counter := rfl
@[simp] theorem finishReceive_wcount : s.finishReceive.wcount = s.wcount := rfl
@[simp] theorem finishReceive_cs : s.finishReceive.cs = s.cs := rfl
@[simp] theorem finishReceive_dqOe : s.finishReceive.dqOe = s.dqOe := rfl
@[simp] theorem finishReceive_sr : s.finishReceive.sr = s.sr := rfl
@[simp] theorem finishReceive_lastAdr : s.finishReceive.lastAdr = s.lastAdr := rfl
@[simp] theorem finishReceive_latency : s.finishReceive.latency = s.latency := rfl
@[simp] theorem finishReceive_ck : s.finishReceive.ck = s.ck := rfl
@[simp] theorem finishReceive_params : s.finishReceive.params = s.params := rfl
@[simp] theorem finishReceive_script : s.finishReceive.script = s.script := rfl
@[simp] theorem finishReceive_cycle : s.finishReceive.cycle = s.cycle := rfl
@[simp] theorem finishReceive_out : s.finishReceive.out = s.out := rfl
end finishReceive

section openWindow
variable (s : State)
@[simp] theorem openWindow_state : s.openWindow.state = .waitNext := rfl
@[simp] theorem openWindow_counter : s.openWindow.counter = s.counter := rfl
@[simp] theorem openWindow_wcount : s.openWindow.wcount = Config.waitNextLoad := rfl
@[simp] theorem openWindow_cs : s.openWindow.cs = s.cs := rfl
@[simp] theorem openWindow_dqOe : s.openWindow.dqOe = s.dqOe := rfl
@[simp] theorem openWindow_sr : s.openWindow.sr = s.sr := rfl
@[simp] theorem openWindow_lastAdr : s.openWindow.lastAdr = s.lastAdr := rfl
@[simp] theorem openWindow_latency : s.openWindow.latency = s.latency := rfl
@[simp] theorem openWindow_ck : s.openWindow.ck = s.ck := rfl
@[simp] theorem openWindow_params : s.openWindow.params = s.params := rfl
@[simp] theorem openWindow_script : s.openWindow.script = s.script := rfl
@[simp] theorem openWindow_cycle : s.openWindow.cycle = s.cycle := rfl
@[simp] theorem openWindow_out : s.openWindow.out = s.out := rfl
end openWindow

section countWindow
variable (s : State)
@[simp] theorem countWindow_state : s.countWindow.state = s.state := rfl
@[simp] theorem countWindow_counter : s.countWindow.counter = s.counter := rfl
@[simp] theorem countWindow_wcount : s.countWindow.wcount = if s.wcount ≠ 0 then s.wcount - 1 else s.wcount := rfl
@[simp] theorem countWindow_cs : s.countWindow.cs = s.cs := rfl
@[simp] theorem countWindow_dqOe : s.countWindow.dqOe = s.dqOe := rfl
@[simp] theorem countWindow_sr : s.countWindow.sr = s.sr := rfl
@[simp] theorem countWindow_lastAdr : s.countWindow.lastAdr = s.lastAdr := rfl
@[simp] theorem countWindow_latency : s.countWindow.latency = s.latency := rfl
@[simp] theorem countWindow_ck : s.countWindow.ck = s.ck := rfl
@[simp] theorem countWindow_params : s.countWindow.params = s.params := rfl
@[simp] theorem countWindow_script : s.countWindow.script = s.script := rfl
@[simp] theorem countWindow_cycle : s.countWindow.cycle = s.cycle := rfl
@[simp] theorem countWindow_out : s.countWindow.out = s.out := rfl
end countWindow

section acceptContinuation
variable (s : State) (adr : WordAdr)
@[simp] theorem acceptContinuation_state : (s.acceptContinuation adr).state = .shiftDat := rfl
@[simp] theorem acceptContinuation_counter : (s.acceptContinuation adr).counter = Config.dataLoad := rfl
@[simp] theorem acceptContinuation_wcount : (s.acceptContinuation adr).wcount = s.wcount := rfl
@[simp] theorem acceptContinuation_cs : (s.acceptContinuation adr).cs = s.cs := rfl
@[simp] theorem acceptContinuation_dqOe : (s.acceptContinuation adr).dqOe = s.dqOe := rfl
@[simp] theorem acceptContinuation_sr : (s.acceptContinuation adr).sr = s.sr := rfl
@[simp] theorem acceptContinuation_lastAdr : (s.acceptContinuation adr).lastAdr = adr := rfl
@[simp] theorem acceptContinuation_latency : (s.acceptContinuation adr).latency = s.latency := rfl
@[simp] theorem acceptContinuation_ck : (s.acceptContinuation adr).ck = s.ck := rfl
@[simp] theorem acceptContinuation_params : (s.acceptContinuation adr).params = s.params := rfl
@[simp] theorem acceptContinuation_script : (s.acceptContinuation adr).script = s.script := rfl
@[simp] theorem acceptContinuation_cycle : (s.acceptContinuation adr).cycle = s.cycle := rfl
@[simp] theorem acceptContinuation_out : (s.acceptContinuation adr).out = s.out := rfl
end acceptContinuation

section releaseToIdle
variable (s : State)
@[simp] theorem releaseToIdle_state : s.releaseToIdle.state = .idle := rfl
@[simp] theorem releaseToIdle_counter : s.releaseToIdle.counter = s.counter := rfl
@[simp] theorem releaseToIdle_wcount : s.releaseToIdle.wcount = s.wcount := rfl
@[simp] theorem releaseToIdle_cs : s.releaseToIdle.cs = ChipSelects.none s.params.nCs := rfl
@[simp] theorem releaseToIdle_dqOe : s.releaseToIdle.dqOe = s.dqOe := rfl
@[simp] theorem releaseToIdle_sr : s.releaseToIdle.sr = s.sr := rfl
@[simp] theorem releaseToIdle_lastAdr : s.releaseToIdle.lastAdr = s.lastAdr := rfl
@[simp] theorem releaseToIdle_latency : s.releaseToIdle.latency = s.latency := rfl
@[simp] theorem releaseToIdle_ck : s.releaseToIdle.ck = s.ck := rfl
@[simp] theorem releaseToIdle_params : s.releaseToIdle.params = s.params := rfl
@[simp] theorem releaseToIdle_script : s.releaseToIdle.script = s.script := rfl
@[simp] theorem releaseToIdle_cycle : s.releaseToIdle.cycle = s.cycle := rfl
@[simp] theorem releaseToIdle_out : s.releaseToIdle.out = s.out := rfl
end releaseToIdle

section writeLatency
variable (s : State) (l : BitVec 5)
@[simp] theorem writeLatency_state : (s.writeLatency l).state = s.state := rfl
@[simp] theorem writeLatency_counter : (s.writeLatency l).counter = s.counter := rfl
@[simp] theorem writeLatency_wcount : (s.writeLatency l).wcount = s.wcount := rfl
@[simp] theorem writeLatency_cs : (s.writeLatency l).cs = s.cs := rfl
@[simp] theorem writeLatency_dqOe : (s.writeLatency l).dqOe = s.dqOe := rfl
@[simp] theorem writeLatency_sr : (s.writeLatency l).sr = s.sr := rfl
@[simp] theorem writeLatency_lastAdr : (s.writeLatency l).lastAdr = s.lastAdr := rfl
@[simp] theorem writeLatency_latency : (s.writeLatency l).latency = l := rfl
@[simp] theorem writeLatency_ck : (s.writeLatency l).ck = s.ck := rfl
@[simp] theorem writeLatency_params : (s.writeLatency l).params = s.params := rfl
@[simp] theorem writeLatency_script : (s.writeLatency l).script = s.script := rfl
@[simp] theorem writeLatency_cycle : (s.writeLatency l).cycle = s.cycle := rfl
@[simp] theorem writeLatency_out : (s.writeLatency l).out = s.out := rfl
end writeLatency

section resetRegisters
variable (s : State)
@[simp] theorem resetRegisters_state : s.resetRegisters.state = .idle := rfl
@[simp] theorem resetRegisters_counter : s.resetRegisters.counter = 0 := rfl
@[simp] theorem resetRegisters_wcount : s.resetRegisters.wcount = 0 := rfl
@[simp] theorem resetRegisters_cs : s.resetRegisters.cs = ChipSelects.none s.params.nCs := rfl
@[simp] theorem resetRegisters_dqOe : s.resetRegisters.dqOe = false := rfl
@[simp] theorem resetRegisters_sr : s.resetRegisters.sr = Config.freeSr s.cycle := rfl
@[simp] theorem resetRegisters_lastAdr : s.resetRegisters.lastAdr = Config.freeLastAdr s.cycle := rfl
@[simp] theorem resetRegisters_latency : s.resetRegisters.latency = s.params.initLatency := rfl
@[simp] theorem resetRegisters_ck : s.resetRegisters.ck = s.ck := rfl
@[simp] theorem resetRegisters_params : s.resetRegisters.params = s.params := rfl
@[simp] theorem resetRegisters_script : s.resetRegisters.script = s.script := rfl
@[simp] theorem resetRegisters_cycle : s.resetRegisters.cycle = s.cycle := rfl
@[simp] theorem resetRegisters_out : s.resetRegisters.out = s.out := rfl
end resetRegisters

section endCycle
variable (s : State) (o : Outputs)
@[simp] theorem endCycle_state : (s.endCycle o).state = s.state := rfl
@[simp] theorem endCycle_counter : (s.endCycle o).counter = s.counter := rfl
@[simp] theorem endCycle_wcount : (s.endCycle o).wcount = s.wcount := rfl
@[simp] theorem endCycle_cs : (s.endCycle o).cs = s.cs := rfl
@[simp] theorem endCycle_dqOe : (s.endCycle o).dqOe = s.dqOe := rfl
@[simp] theorem endCycle_sr : (s.endCycle o).sr = s.sr := rfl
@[simp] theorem endCycle_lastAdr : (s.endCycle o).lastAdr = s.lastAdr := rfl
@[simp] theorem endCycle_latency : (s.endCycle o).latency = s.latency := rfl
@[simp] theorem endCycle_ck : (s.endCycle o).ck = s.ck := rfl
@[simp] theorem endCycle_params : (s.endCycle o).params = s.params := rfl
@[simp] theorem endCycle_script : (s.endCycle o).script = s.script.tail := rfl
@[simp] theorem endCycle_cycle : (s.endCycle o).cycle = s.cycle + 1 := rfl
@[simp] theorem endCycle_out : (s.endCycle o).out = some o := rfl
end endCycle

end Sys2Proof.Machine.State
end

