-- ==== Sys2Proof/Laws/Cycle.lean ====
section
/-!
SUPPORT. What one clock cycle can do, said once: the inputs of coming cycles, phase P case by case, the cycle's
equation and inversion, and runs of cycles.
-/
namespace Sys2Proof.Machine

/-! ### Inputs of coming cycles -/

theorem State.inputs_eq (s : State) : s.inputs = s.inputsAt 0 := rfl

/-- The inputs depend on the script and on the cycle number only. -/
theorem State.inputsAt_congr {s t : State} (hs : t.script = s.script) (hc : t.cycle = s.cycle) (k : Nat) :
    t.inputsAt k = s.inputsAt k := by
  simp only [State.inputsAt, hs, hc]

/-- After a cycle the inputs move up by one. -/
theorem State.inputsAt_tail {s t : State} (hs : t.script = s.script.tail) (hc : t.cycle = s.cycle + 1) (k : Nat) :
    t.inputsAt k = s.inputsAt (k + 1) := by
  unfold State.inputsAt
  rw [hs, hc, List.getElem?_tail, Nat.add_right_comm, Nat.add_assoc]

@[simp] theorem State.inputsAt_placeInputs_zero (s : State) (inp : Inputs) : (s.placeInputs inp).inputs = inp := rfl

/-! ### The clock phase, the generic actions and the control write leave the rest -/

@[simp] theorem pending_iff (inp : Inputs) : pending inp = true ↔ inp.cyc = true ∧ inp.stb = true := by
  simp [pending]

@[simp] theorem phaseN_params (inp : Inputs) (s : State) : (phaseN inp s).params = s.params := rfl

/-- Phase P keeps the model's own fields and the derived clock. -/
theorem phaseP_keeps {inp : Inputs} {s t : State} (h : phaseP inp s = .ok t) :
    t.script = s.script ∧ t.cycle = s.cycle ∧ t.params = s.params ∧ t.ck = s.ck := by
  unfold phaseP at h
  split at h
  · cases h; exact ⟨rfl, rfl, rfl, rfl⟩
  · split at h
    · rename_i u hu
      cases h
      have keep : u.script = s.script ∧ u.cycle = s.cycle ∧ u.params = s.params ∧ u.ck = s.ck := by
        have g : (genericActions inp s).script = s.script ∧ (genericActions inp s).cycle = s.cycle ∧
            (genericActions inp s).params = s.params ∧ (genericActions inp s).ck = s.ck := by
          unfold genericActions; split <;> simp
        unfold stateStep idleStep waitCaStep waitLatStep shiftDatStep ackXferStep waitNextStep at hu
        (repeat' split at hu) <;> cases hu <;> simp [g]
      unfold controlWrite
      split <;> simpa using keep
    · cases h

/-! ### The cycle -/

/-- A cycle answers a next state exactly when its phase P does. -/
theorem runCycle_next {inp : Inputs} {s t : State} :
    runCycle inp s = .next t ↔ ∃ u, phaseP inp (phaseN inp s) = .ok u ∧ t = u.endCycle (outputsOf inp s) := by
  unfold runCycle
  cases h : phaseP inp (phaseN inp s) with
  | error f => simp
  | ok u => simp [eq_comm]

/-- A cycle faults exactly when its phase P does. -/
theorem runCycle_fault {inp : Inputs} {s : State} {f : Fault} :
    runCycle inp s = .fault f ↔ phaseP inp (phaseN inp s) = .error f := by
  unfold runCycle
  cases h : phaseP inp (phaseN inp s) <;> simp

/-- No cycle is refused. -/
theorem runCycle_not_refused (inp : Inputs) (s : State) (r : Refusal) : runCycle inp s ≠ .refused r := by
  unfold runCycle; split <;> simp

/-- What every cycle that answers leaves of the model's own fields, and the derived clock. -/
theorem runCycle_keeps {inp : Inputs} {s t : State} (h : runCycle inp s = .next t) :
    t.script = s.script.tail ∧ t.cycle = s.cycle + 1 ∧ t.params = s.params ∧ t.ck = nextCk inp s ∧
      t.out = some (outputsOf inp s) := by
  obtain ⟨u, hu, rfl⟩ := runCycle_next.1 h
  obtain ⟨h1, h2, h3, h4⟩ := phaseP_keeps hu
  simp [h1, h2, h3, h4, phaseN]

/-- Every operation's meaning is the cycle it drives. -/
theorem exec_eq_runCycle (i : Instr) (s : State) : exec i s = runCycle (drivenBy i s.inputs) (carriedIn i s) := by
  cases i with
  | caReadLinear u l =>
    unfold exec execCaReadLinear carriedIn drivenBy
    dsimp only
    split <;> rfl
  | _ => rfl

/-! ### The decoder reads what the ports carry -/

theorem getLsbD_31_of_breq (c b : Bool) (a : WordAdr) :
    (BitVec.ofBool c ++ BitVec.ofBool b ++ a).getLsbD 31 = c := by
  rw [BitVec.getLsbD_append, BitVec.getLsbD_append]
  cases c <;> rfl

theorem getLsbD_30_of_breq (c b : Bool) (a : WordAdr) :
    (BitVec.ofBool c ++ BitVec.ofBool b ++ a).getLsbD 30 = b := by
  rw [BitVec.getLsbD_append, BitVec.getLsbD_append]
  cases b <;> rfl

/-- The low part of a concatenation. -/
theorem extractLsb'_append_low {m n : Nat} (x : BitVec m) (y : BitVec n) : (x ++ y).extractLsb' 0 n = y := by
  apply BitVec.eq_of_getLsbD_eq
  intro i hi
  simp [BitVec.getLsbD_append, hi]

/-- The decoder reads a request word back into the fields it was packed from (R74, R76). -/
theorem decodeBreq_fields (c b : Bool) (a : WordAdr) :
    decodeBreq (BitVec.ofBool c ++ BitVec.ofBool b ++ a) =
      if c then (if b then .busRead a else .busNoreqStb a) else .busNoreqCyc b a := by
  unfold decodeBreq
  rw [getLsbD_31_of_breq, getLsbD_30_of_breq, extractLsb'_append_low]

/-- The decoder reads a control word back into the fields it was packed from (R75, R76). -/
theorem decodeCreq_fields (c : Bool) (a : BusWord) :
    decodeCreq (BitVec.ofBool c ++ a) = if c then .ctrlWrite a else .ctrlRead a := by
  unfold decodeCreq
  rw [extractLsb'_append_low, BitVec.getLsbD_append]
  cases c <;> rfl

/-- The bus operation of a cycle drives the inputs the cycle has. -/
theorem exec_busOperation (s : State) : exec s.busOperation s = runCycle s.inputs s := by
  rw [exec_eq_runCycle]
  unfold State.busOperation breqOf
  rw [decodeBreq_fields]
  generalize s.inputs = inp
  obtain ⟨rst, cyc, stb, adr, sel, we, wd, dq, rw'⟩ := inp
  cases cyc <;> cases stb <;> rfl

/-- The control operation of a cycle drives the inputs the cycle has. -/
theorem exec_ctrlOperation (s : State) : exec s.ctrlOperation s = runCycle s.inputs s := by
  rw [exec_eq_runCycle]
  unfold State.ctrlOperation creqOf
  rw [decodeCreq_fields]
  generalize s.inputs = inp
  obtain ⟨rst, cyc, stb, adr, sel, we, wd, dq, rw'⟩ := inp
  cases we <;> rfl

/-- A step is the cycle the current inputs drive. -/
theorem step_eq_runCycle (s : State) : step s = runCycle s.inputs s :=
  exec_busOperation s

/-! ### Runs of cycles -/

@[simp] theorem runCycles_zero (s : State) : runCycles 0 s = .next s := rfl

theorem runCycles_succ (n : Nat) (s : State) :
    runCycles (n + 1) s =
      match step s with
      | .next t => runCycles n t
      | .fault f => .fault f
      | .refused r => .refused r := by
  have hstep : Sys2Proof.core.step s = step s := rfl
  simp only [runCycles, Host.Core.run, hstep]
  cases step s <;> rfl

theorem runCycles_succ_of_next {s t : State} (h : step s = .next t) (n : Nat) :
    runCycles (n + 1) s = runCycles n t := by
  rw [runCycles_succ, h]

/-- A run of `m + n` cycles is a run of `m` and then of `n`. -/
theorem runCycles_add {m : Nat} {s t : State} (h : runCycles m s = .next t) (n : Nat) :
    runCycles (m + n) s = runCycles n t := by
  induction m generalizing s with
  | zero => cases h; simp
  | succ m ih =>
    rw [runCycles_succ] at h
    rw [Nat.succ_add_eq_add_succ, Nat.add_succ, runCycles_succ]
    cases hs : step s with
    | next u => rw [hs] at h; exact ih h
    | fault f => rw [hs] at h; cases h
    | refused r => rw [hs] at h; cases h

end Sys2Proof.Machine
end

