-- ==== Sys2Proof/Laws/Sequencer.lean ====
section
/-!
SUPPORT. What each part of a cycle writes, field by field, and the cycle's result for each sequencer state.
-/
namespace Sys2Proof.Machine

/-! ### Phase N (R114) -/

@[simp] theorem phaseN_state (inp : Inputs) (s : State) : (phaseN inp s).state = s.state := rfl
@[simp] theorem phaseN_counter (inp : Inputs) (s : State) : (phaseN inp s).counter = s.counter := rfl
@[simp] theorem phaseN_wcount (inp : Inputs) (s : State) : (phaseN inp s).wcount = s.wcount := rfl
@[simp] theorem phaseN_cs (inp : Inputs) (s : State) : (phaseN inp s).cs = s.cs := rfl
@[simp] theorem phaseN_dqOe (inp : Inputs) (s : State) : (phaseN inp s).dqOe = s.dqOe := rfl
@[simp] theorem phaseN_sr (inp : Inputs) (s : State) : (phaseN inp s).sr = s.sr := rfl
@[simp] theorem phaseN_lastAdr (inp : Inputs) (s : State) : (phaseN inp s).lastAdr = s.lastAdr := rfl
@[simp] theorem phaseN_latency (inp : Inputs) (s : State) : (phaseN inp s).latency = s.latency := rfl
@[simp] theorem phaseN_ck (inp : Inputs) (s : State) : (phaseN inp s).ck = nextCk inp s := rfl
@[simp] theorem phaseN_script (inp : Inputs) (s : State) : (phaseN inp s).script = s.script := rfl
@[simp] theorem phaseN_cycle (inp : Inputs) (s : State) : (phaseN inp s).cycle = s.cycle := rfl
@[simp] theorem phaseN_out (inp : Inputs) (s : State) : (phaseN inp s).out = s.out := rfl

/-! ### The generic actions (R125) -/

@[simp] theorem genericActions_state (inp : Inputs) (s : State) :
    (genericActions inp s).state = s.state := by
  unfold genericActions; split <;> rfl
@[simp] theorem genericActions_counter (inp : Inputs) (s : State) :
    (genericActions inp s).counter = if active s then s.counter - 1 else s.counter := by
  unfold genericActions; split <;> rfl
@[simp] theorem genericActions_wcount (inp : Inputs) (s : State) :
    (genericActions inp s).wcount = s.wcount := by
  unfold genericActions; split <;> rfl
@[simp] theorem genericActions_cs (inp : Inputs) (s : State) :
    (genericActions inp s).cs = s.cs := by
  unfold genericActions; split <;> rfl
@[simp] theorem genericActions_dqOe (inp : Inputs) (s : State) :
    (genericActions inp s).dqOe = s.dqOe := by
  unfold genericActions; split <;> rfl
@[simp] theorem genericActions_sr (inp : Inputs) (s : State) :
    (genericActions inp s).sr = if active s then s.sr.extractLsb' 0 40 ++ inp.dqI else s.sr := by
  unfold genericActions; split <;> rfl
@[simp] theorem genericActions_lastAdr (inp : Inputs) (s : State) :
    (genericActions inp s).lastAdr = s.lastAdr := by
  unfold genericActions; split <;> rfl
@[simp] theorem genericActions_latency (inp : Inputs) (s : State) :
    (genericActions inp s).latency = s.latency := by
  unfold genericActions; split <;> rfl
@[simp] theorem genericActions_ck (inp : Inputs) (s : State) :
    (genericActions inp s).ck = s.ck := by
  unfold genericActions; split <;> rfl
@[simp] theorem genericActions_params (inp : Inputs) (s : State) :
    (genericActions inp s).params = s.params := by
  unfold genericActions; split <;> rfl
@[simp] theorem genericActions_script (inp : Inputs) (s : State) :
    (genericActions inp s).script = s.script := by
  unfold genericActions; split <;> rfl
@[simp] theorem genericActions_cycle (inp : Inputs) (s : State) :
    (genericActions inp s).cycle = s.cycle := by
  unfold genericActions; split <;> rfl
@[simp] theorem genericActions_out (inp : Inputs) (s : State) :
    (genericActions inp s).out = s.out := by
  unfold genericActions; split <;> rfl

/-! ### The control write (R148) -/

@[simp] theorem controlWrite_state (inp : Inputs) (s : State) :
    (controlWrite inp s).state = s.state := by
  unfold controlWrite; split <;> rfl
@[simp] theorem controlWrite_counter (inp : Inputs) (s : State) :
    (controlWrite inp s).counter = s.counter := by
  unfold controlWrite; split <;> rfl
@[simp] theorem controlWrite_wcount (inp : Inputs) (s : State) :
    (controlWrite inp s).wcount = s.wcount := by
  unfold controlWrite; split <;> rfl
@[simp] theorem controlWrite_cs (inp : Inputs) (s : State) :
    (controlWrite inp s).cs = s.cs := by
  unfold controlWrite; split <;> rfl
@[simp] theorem controlWrite_dqOe (inp : Inputs) (s : State) :
    (controlWrite inp s).dqOe = s.dqOe := by
  unfold controlWrite; split <;> rfl
@[simp] theorem controlWrite_sr (inp : Inputs) (s : State) :
    (controlWrite inp s).sr = s.sr := by
  unfold controlWrite; split <;> rfl
@[simp] theorem controlWrite_lastAdr (inp : Inputs) (s : State) :
    (controlWrite inp s).lastAdr = s.lastAdr := by
  unfold controlWrite; split <;> rfl
@[simp] theorem controlWrite_latency (inp : Inputs) (s : State) :
    (controlWrite inp s).latency = latencyAfter inp s := by
  unfold controlWrite latencyAfter; split <;> rfl
@[simp] theorem controlWrite_ck (inp : Inputs) (s : State) :
    (controlWrite inp s).ck = s.ck := by
  unfold controlWrite; split <;> rfl
@[simp] theorem controlWrite_params (inp : Inputs) (s : State) :
    (controlWrite inp s).params = s.params := by
  unfold controlWrite; split <;> rfl
@[simp] theorem controlWrite_script (inp : Inputs) (s : State) :
    (controlWrite inp s).script = s.script := by
  unfold controlWrite; split <;> rfl
@[simp] theorem controlWrite_cycle (inp : Inputs) (s : State) :
    (controlWrite inp s).cycle = s.cycle := by
  unfold controlWrite; split <;> rfl
@[simp] theorem controlWrite_out (inp : Inputs) (s : State) :
    (controlWrite inp s).out = s.out := by
  unfold controlWrite; split <;> rfl

/-! ### The cycle, case by case -/

/-- A cycle in reset (R104, R172). -/
theorem runCycle_reset {inp : Inputs} (s : State) (h : inp.rst = true) :
    runCycle inp s = .next ((phaseN inp s).resetRegisters.endCycle (outputsOf inp s)) := by
  simp [runCycle, phaseP, h]

/-- A cycle without reset whose per-state rule answers (R104). -/
theorem runCycle_of_rule {inp : Inputs} {s u : State} (h : inp.rst = false)
    (hu : stateStep inp (phaseN inp s) (genericActions inp (phaseN inp s)) = .ok u) :
    runCycle inp s = .next ((controlWrite inp u).endCycle (outputsOf inp s)) := by
  simp [runCycle, phaseP, h, hu]

/-- A cycle without reset whose per-state rule faults (R104). -/
theorem runCycle_of_fault {inp : Inputs} {s : State} {f : Fault} (h : inp.rst = false)
    (hu : stateStep inp (phaseN inp s) (genericActions inp (phaseN inp s)) = .error f) :
    runCycle inp s = .fault f := by
  simp [runCycle, phaseP, h, hu]

/-- A cycle that answers without reset: its per-state rule answered (R104). -/
theorem runCycle_rule_of_next {inp : Inputs} {s t : State} (h : inp.rst = false) (ht : runCycle inp s = .next t) :
    ∃ u, stateStep inp (phaseN inp s) (genericActions inp (phaseN inp s)) = .ok u ∧
      t = (controlWrite inp u).endCycle (outputsOf inp s) := by
  cases hu : stateStep inp (phaseN inp s) (genericActions inp (phaseN inp s)) with
  | ok u => rw [runCycle_of_rule h hu] at ht; cases ht; exact ⟨u, rfl, rfl⟩
  | error f => rw [runCycle_of_fault h hu] at ht; cases ht

end Sys2Proof.Machine
end

