-- ==== Sys2Proof/Laws/Closed.lean ====
section
/-!
SUPPORT. The clock cycle in closed form: what each register is after a cycle without reset, register by register, and
when the cycle faults. Every statement about one cycle follows from `runCycle_closed`, `runCycle_reset`,
`runCycle_unmapped` and `runCycle_latencyZero`.
-/
namespace Sys2Proof.Machine

/-- The sequencer state after a cycle. -/
def nextState (inp : Inputs) (s : State) : SeqState :=
  match s.state with
  | .idle => if pending inp then .waitCa else .idle
  | .waitCa => if lastCount s then .waitLat else .waitCa
  | .waitLat => if lastCount s then .shiftDat else .waitLat
  | .shiftDat => if lastCount s then .ackXfer else .shiftDat
  | .ackXfer => .waitNext
  | .waitNext =>
    if pending inp then (if cont inp.adr s.lastAdr then .shiftDat else .idle)
    else if windowExpires s then .idle else .waitNext

/-- The counter after an active cycle's decrement (R22). -/
def counted (s : State) : BitVec 8 :=
  if active s then s.counter - 1 else s.counter

/-- The cycle counter after a cycle. -/
def nextCounter (inp : Inputs) (s : State) : BitVec 8 :=
  match s.state with
  | .idle => if pending inp then Config.caLoad else 0
  | .waitCa => if lastCount s then 2 * s.latency.setWidth 8 - 2 else counted s
  | .waitLat => if lastCount s then Config.dataLoad else counted s
  | .shiftDat => counted s
  | .ackXfer => counted s
  | .waitNext => if pending inp && cont inp.adr s.lastAdr then Config.dataLoad else counted s

/-- The wait counter after a cycle. -/
def nextWcount (s : State) : BitVec 4 :=
  match s.state with
  | .idle => 0
  | .ackXfer => Config.waitNextLoad
  | .waitNext => if s.wcount ≠ 0 then s.wcount - 1 else s.wcount
  | _ => s.wcount

/-- The chip-selects after a cycle. -/
def nextCs (inp : Inputs) (s : State) : ChipSelects :=
  match s.state with
  | .idle =>
    if pending inp then ChipSelects.onehot s.params.nCs (dev s.params inp.adr) else ChipSelects.none s.params.nCs
  | .waitNext =>
    if pending inp then (if cont inp.adr s.lastAdr then s.cs else ChipSelects.none s.params.nCs)
    else if windowExpires s then ChipSelects.none s.params.nCs else s.cs
  | _ => s.cs

/-- The output-enable after a cycle. -/
def nextDqOe (inp : Inputs) (s : State) : Bool :=
  match s.state with
  | .idle => if pending inp then true else s.dqOe
  | .waitCa => if lastCount s then false else s.dqOe
  | _ => s.dqOe

/-- The shift register after an active cycle's shift (R125). -/
def shifted (inp : Inputs) (s : State) : Packet :=
  if active s then s.sr.extractLsb' 0 40 ++ inp.dqI else s.sr

/-- The shift register after a cycle. -/
def nextSr (inp : Inputs) (s : State) : Packet :=
  match s.state with
  | .idle => if pending inp then caPacket s.params inp.adr else shifted inp s
  | .waitLat => if lastCount s then 0 else shifted inp s
  | _ => shifted inp s

/-- The latched address after a cycle. -/
def nextLastAdr (inp : Inputs) (s : State) : WordAdr :=
  if accepted inp s then inp.adr else s.lastAdr

/-- The state after a cycle without reset that does not fault. -/
def nextOf (inp : Inputs) (s : State) : State :=
  { state := nextState inp s
    counter := nextCounter inp s
    wcount := nextWcount s
    cs := nextCs inp s
    dqOe := nextDqOe inp s
    sr := nextSr inp s
    lastAdr := nextLastAdr inp s
    latency := latencyAfter inp s
    ck := nextCk inp s
    params := s.params
    script := s.script.tail
    cycle := s.cycle + 1
    out := some (outputsOf inp s) }

theorem lastCount_phaseN (inp : Inputs) (s : State) : lastCount (phaseN inp s) = lastCount s := by
  simp only [lastCount, phaseN_counter]

theorem windowExpires_phaseN (inp : Inputs) (s : State) : windowExpires (phaseN inp s) = windowExpires s :=
  congrArg (fun w : BitVec 4 => decide (w ≤ 1)) (phaseN_wcount inp s)

theorem active_phaseN (inp : Inputs) (s : State) : active (phaseN inp s) = active s := by
  simp only [active, phaseN_counter]

theorem latencyAfter_congr (inp : Inputs) {s u : State} (h : u.latency = s.latency) :
    latencyAfter inp u = latencyAfter inp s := by
  unfold latencyAfter; rw [h]

/-- IDLE with a device index of N_CS or more faults (R90). -/
theorem runCycle_unmapped {inp : Inputs} {s : State} (h : raisesUnmapped inp s = true) :
    runCycle inp s = .fault (.unmappedDevice inp.adr) := by
  simp only [raisesUnmapped, Bool.and_eq_true, Bool.not_eq_true', beq_iff_eq] at h
  obtain ⟨⟨⟨hr, hs⟩, hp⟩, hm⟩ := h
  apply runCycle_of_fault hr
  simp only [stateStep, phaseN_state, hs, idleStep, hp, phaseN_params, hm, if_true]
  rfl

/-- The WAIT_CA exit with latency 0 faults (R93). -/
theorem runCycle_latencyZero {inp : Inputs} {s : State} (h : raisesLatencyZero inp s = true) :
    runCycle inp s = .fault (.latencyZero s.latency s.lastAdr) := by
  simp only [raisesLatencyZero, Bool.and_eq_true, Bool.not_eq_true', beq_iff_eq] at h
  obtain ⟨⟨⟨hr, hs⟩, hc⟩, hl⟩ := h
  apply runCycle_of_fault hr
  simp [stateStep, hs, waitCaStep, lastCount, hc, hl]

set_option linter.unusedSimpArgs false in
/-- The rule of the sequencer state answers when the cycle is fault-free, and gives the closed form's registers. -/
theorem rule_closed {inp : Inputs} {s : State} (hr : inp.rst = false) (hf : faultFree inp s = true) :
    ∃ u, stateStep inp (phaseN inp s) (genericActions inp (phaseN inp s)) = .ok u ∧
      (controlWrite inp u).endCycle (outputsOf inp s) = nextOf inp s := by
  simp only [faultFree, raisesUnmapped, raisesLatencyZero, hr, Bool.not_false, Bool.true_and] at hf
  have hp' := pending_iff inp
  cases hs : s.state <;> simp only [stateStep, phaseN_state, hs]
  case idle =>
    simp only [hs, beq_self_eq_true, Bool.true_and] at hf
    cases hp : pending inp
    · refine ⟨_, if_neg (by simp [hp]), ?_⟩
      ext1 <;> simp [nextOf, nextState, nextCounter, nextWcount, nextCs, nextDqOe, nextSr, shifted, counted, nextLastAdr, accepted,
        hs, hp, active_phaseN, latencyAfter]
    · have hm : mapped s.params inp.adr = true := by
        cases h : mapped s.params inp.adr
        · rw [hp, h] at hf; simp at hf
        · rfl
      refine ⟨_, (if_pos hp).trans (if_pos hm), ?_⟩
      ext1 <;> simp [nextOf, nextState, nextCounter, nextWcount, nextCs, nextDqOe, nextSr, shifted, counted, nextLastAdr, accepted,
        hs, hp, hp'.1 hp, active_phaseN, latencyAfter]
  case waitCa =>
    cases hl : lastCount s
    · refine ⟨_, if_neg (by simpa [lastCount] using hl), ?_⟩
      ext1 <;> simp [nextOf, nextState, nextCounter, nextWcount, nextCs, nextDqOe, nextSr, shifted, counted, nextLastAdr, accepted,
        hs, hl, active_phaseN, latencyAfter]
    · have hz : s.latency ≠ 0 := by
        intro h0
        have h1 : (s.counter == 1) = true := hl
        rw [hs, h1, h0] at hf
        simp at hf
      refine ⟨_, (if_pos hl).trans (if_neg hz), ?_⟩
      ext1 <;> simp [nextOf, nextState, nextCounter, nextWcount, nextCs, nextDqOe, nextSr, shifted, counted, nextLastAdr, accepted,
        hs, hl, active_phaseN, latencyAfter]
  case waitLat =>
    cases hl : lastCount s
    · refine ⟨genericActions inp (phaseN inp s), by simp [waitLatStep, lastCount_phaseN, hl], ?_⟩
      ext1 <;> simp [nextOf, nextState, nextCounter, nextWcount, nextCs, nextDqOe, nextSr, shifted, counted, nextLastAdr, accepted,
        hs, hl, active_phaseN, latencyAfter]
    · refine ⟨(genericActions inp (phaseN inp s)).startReceive, by simp [waitLatStep, lastCount_phaseN, hl], ?_⟩
      ext1 <;> simp [nextOf, nextState, nextCounter, nextWcount, nextCs, nextDqOe, nextSr, shifted, counted, nextLastAdr, accepted,
        hs, hl, active_phaseN, latencyAfter]
  case shiftDat =>
    cases hl : lastCount s
    · refine ⟨genericActions inp (phaseN inp s), by simp [shiftDatStep, lastCount_phaseN, hl], ?_⟩
      ext1 <;> simp [nextOf, nextState, nextCounter, nextWcount, nextCs, nextDqOe, nextSr, shifted, counted, nextLastAdr, accepted,
        hs, hl, active_phaseN, latencyAfter]
    · refine ⟨(genericActions inp (phaseN inp s)).finishReceive, by simp [shiftDatStep, lastCount_phaseN, hl], ?_⟩
      ext1 <;> simp [nextOf, nextState, nextCounter, nextWcount, nextCs, nextDqOe, nextSr, shifted, counted, nextLastAdr, accepted,
        hs, hl, active_phaseN, latencyAfter]
  case ackXfer =>
    refine ⟨_, rfl, ?_⟩
    ext1 <;> simp [nextOf, nextState, nextCounter, nextWcount, nextCs, nextDqOe, nextSr, shifted, counted, nextLastAdr, accepted,
        hs, active_phaseN, latencyAfter]
  case waitNext =>
    cases hp : pending inp
    · cases hw : windowExpires s
      · refine ⟨(genericActions inp (phaseN inp s)).countWindow,
          by simp [waitNextStep, windowExpires_phaseN, hp, hw], ?_⟩
        ext1 <;> simp [nextOf, nextState, nextCounter, nextWcount, nextCs, nextDqOe, nextSr, shifted, counted, nextLastAdr, accepted,
        hs, hp, hw, active_phaseN, latencyAfter]
      · refine ⟨(genericActions inp (phaseN inp s)).countWindow.releaseToIdle,
          by simp [waitNextStep, windowExpires_phaseN, hp, hw], ?_⟩
        ext1 <;> simp [nextOf, nextState, nextCounter, nextWcount, nextCs, nextDqOe, nextSr, shifted, counted, nextLastAdr, accepted,
        hs, hp, hw, active_phaseN, latencyAfter]
    · cases hc : cont inp.adr s.lastAdr
      · refine ⟨(genericActions inp (phaseN inp s)).countWindow.releaseToIdle,
          by simp [waitNextStep, hp, hc], ?_⟩
        ext1 <;> simp [nextOf, nextState, nextCounter, nextWcount, nextCs, nextDqOe, nextSr, shifted, counted, nextLastAdr, accepted,
        hs, hp, hc, hp'.1 hp, active_phaseN, latencyAfter]
      · refine ⟨(genericActions inp (phaseN inp s)).countWindow.acceptContinuation inp.adr,
          by simp [waitNextStep, hp, hc], ?_⟩
        ext1 <;> simp [nextOf, nextState, nextCounter, nextWcount, nextCs, nextDqOe, nextSr, shifted, counted, nextLastAdr, accepted,
        hs, hp, hc, hp'.1 hp, active_phaseN, latencyAfter]

/-- A cycle without reset and without a fault, in closed form. -/
theorem runCycle_closed {inp : Inputs} {s : State} (hr : inp.rst = false) (hf : faultFree inp s = true) :
    runCycle inp s = .next (nextOf inp s) := by
  obtain ⟨u, hu, hn⟩ := rule_closed hr hf
  rw [runCycle_of_rule hr hu, hn]

/-- What a cycle can answer: all of it. -/
theorem runCycle_cases (inp : Inputs) (s : State) :
    (inp.rst = true ∧ runCycle inp s = .next ((phaseN inp s).resetRegisters.endCycle (outputsOf inp s))) ∨
    (raisesUnmapped inp s = true ∧ runCycle inp s = .fault (.unmappedDevice inp.adr)) ∨
    (raisesLatencyZero inp s = true ∧ runCycle inp s = .fault (.latencyZero s.latency s.lastAdr)) ∨
    (inp.rst = false ∧ faultFree inp s = true ∧ runCycle inp s = .next (nextOf inp s)) := by
  cases hr : inp.rst
  · cases hu : raisesUnmapped inp s
    · cases hz : raisesLatencyZero inp s
      · have hf : faultFree inp s = true := by simp [faultFree, hu, hz]
        exact .inr (.inr (.inr ⟨rfl, hf, runCycle_closed hr hf⟩))
      · exact .inr (.inr (.inl ⟨rfl, runCycle_latencyZero hz⟩))
    · exact .inr (.inl ⟨rfl, runCycle_unmapped hu⟩)
  · exact .inl ⟨rfl, runCycle_reset s hr⟩

/-- A cycle without reset that answers answers the closed form. -/
theorem eq_nextOf_of_next {inp : Inputs} {s t : State} (hr : inp.rst = false) (h : runCycle inp s = .next t) :
    t = nextOf inp s := by
  rcases runCycle_cases inp s with ⟨h1, -⟩ | ⟨-, h2⟩ | ⟨-, h2⟩ | ⟨-, -, h2⟩
  · rw [hr] at h1; cases h1
  · rw [h2] at h; cases h
  · rw [h2] at h; cases h
  · rw [h2] at h; cases h; rfl

/-! ### The cycle of an operation -/

@[simp] theorem drivenBy_rst (i : Instr) (inp : Inputs) : (drivenBy i inp).rst = inp.rst := by cases i <;> rfl

@[simp] theorem drivenBy_dqI (i : Instr) (inp : Inputs) : (drivenBy i inp).dqI = inp.dqI := by cases i <;> rfl

/-- An operation's carrier changes the shift register at most. -/
theorem carriedIn_eq (i : Instr) (s : State) : ∃ w, carriedIn i s = s.placePacket w := by
  cases i with
  | caReadLinear upper lower =>
    unfold carriedIn
    dsimp only
    split
    · exact ⟨_, rfl⟩
    · exact ⟨s.sr, rfl⟩
  | _ => exact ⟨s.sr, rfl⟩

@[simp] theorem carriedIn_state (i : Instr) (s : State) : (carriedIn i s).state = s.state := by
  obtain ⟨w, h⟩ := carriedIn_eq i s; rw [h]; rfl

@[simp] theorem carriedIn_counter (i : Instr) (s : State) : (carriedIn i s).counter = s.counter := by
  obtain ⟨w, h⟩ := carriedIn_eq i s; rw [h]; rfl

@[simp] theorem carriedIn_wcount (i : Instr) (s : State) : (carriedIn i s).wcount = s.wcount := by
  obtain ⟨w, h⟩ := carriedIn_eq i s; rw [h]; rfl

@[simp] theorem carriedIn_cs (i : Instr) (s : State) : (carriedIn i s).cs = s.cs := by
  obtain ⟨w, h⟩ := carriedIn_eq i s; rw [h]; rfl

@[simp] theorem carriedIn_dqOe (i : Instr) (s : State) : (carriedIn i s).dqOe = s.dqOe := by
  obtain ⟨w, h⟩ := carriedIn_eq i s; rw [h]; rfl

@[simp] theorem carriedIn_lastAdr (i : Instr) (s : State) : (carriedIn i s).lastAdr = s.lastAdr := by
  obtain ⟨w, h⟩ := carriedIn_eq i s; rw [h]; rfl

@[simp] theorem carriedIn_latency (i : Instr) (s : State) : (carriedIn i s).latency = s.latency := by
  obtain ⟨w, h⟩ := carriedIn_eq i s; rw [h]; rfl

@[simp] theorem carriedIn_ck (i : Instr) (s : State) : (carriedIn i s).ck = s.ck := by
  obtain ⟨w, h⟩ := carriedIn_eq i s; rw [h]; rfl

@[simp] theorem carriedIn_params (i : Instr) (s : State) : (carriedIn i s).params = s.params := by
  obtain ⟨w, h⟩ := carriedIn_eq i s; rw [h]; rfl

@[simp] theorem carriedIn_script (i : Instr) (s : State) : (carriedIn i s).script = s.script := by
  obtain ⟨w, h⟩ := carriedIn_eq i s; rw [h]; rfl

@[simp] theorem carriedIn_cycle (i : Instr) (s : State) : (carriedIn i s).cycle = s.cycle := by
  obtain ⟨w, h⟩ := carriedIn_eq i s; rw [h]; rfl

@[simp] theorem carriedIn_out (i : Instr) (s : State) : (carriedIn i s).out = s.out := by
  obtain ⟨w, h⟩ := carriedIn_eq i s; rw [h]; rfl

/-- Outside WAIT_CA no operation has a packet as its carrier. -/
theorem carriedIn_of_ne {s : State} (h : s.state ≠ .waitCa) (i : Instr) : carriedIn i s = s := by
  cases i <;> simp [carriedIn, packetStarts, h]

/-- Whether a cycle faults does not depend on the shift register. -/
theorem faultFree_carriedIn (i : Instr) (inp : Inputs) (s : State) :
    faultFree inp (carriedIn i s) = faultFree inp s := by
  obtain ⟨w, h⟩ := carriedIn_eq i s; rw [h]; rfl

/-- What the cycle of any operation answers without reset and without a fault. -/
theorem exec_closed {i : Instr} {s : State} (hr : s.inputs.rst = false) (hf : faultFree (drivenBy i s.inputs) s = true) :
    exec i s = .next (nextOf (drivenBy i s.inputs) (carriedIn i s)) := by
  rw [exec_eq_runCycle]
  exact runCycle_closed (by simpa using hr) (by rwa [faultFree_carriedIn])

/-- What the cycle of any operation that answers has answered. -/
theorem exec_next {i : Instr} {s t : State} (h : exec i s = .next t) :
    (s.inputs.rst = true ∧
      t = (phaseN (drivenBy i s.inputs) (carriedIn i s)).resetRegisters.endCycle
        (outputsOf (drivenBy i s.inputs) (carriedIn i s))) ∨
    (s.inputs.rst = false ∧ faultFree (drivenBy i s.inputs) s = true ∧
      t = nextOf (drivenBy i s.inputs) (carriedIn i s)) := by
  rw [exec_eq_runCycle] at h
  rcases runCycle_cases (drivenBy i s.inputs) (carriedIn i s) with ⟨h1, h2⟩ | ⟨-, h2⟩ | ⟨-, h2⟩ | ⟨h1, hf, h2⟩
  · rw [h2] at h; cases h; exact .inl ⟨by simpa using h1, rfl⟩
  · rw [h2] at h; cases h
  · rw [h2] at h; cases h
  · rw [h2] at h; cases h; exact .inr ⟨by simpa using h1, by rwa [faultFree_carriedIn] at hf, rfl⟩

/-- What a step answers without reset and without a fault. -/
theorem step_closed {s : State} (hr : s.inputs.rst = false) (hf : faultFree s.inputs s = true) :
    step s = .next (nextOf s.inputs s) := by
  rw [step_eq_runCycle]; exact runCycle_closed hr hf

/-- After a closed-form cycle the inputs move up by one. -/
theorem inputsAt_nextOf (inp : Inputs) (s : State) (k : Nat) : (nextOf inp s).inputsAt k = s.inputsAt (k + 1) :=
  State.inputsAt_tail rfl rfl k

/-! ### The chip-select condition of phase N -/

theorem anySelected_none {s : State} (h : s.cs = ChipSelects.none s.params.nCs) : anySelected s = false := by
  unfold anySelected
  rw [h]
  simp [ChipSelects.none]

theorem ChipSelects.onehot_bits_ne_zero {n d : Nat} (h : d < n) : (ChipSelects.onehot n d).bits ≠ 0 := by
  simp only [ChipSelects.onehot]
  intro h'
  have e := congrArg BitVec.toNat h'
  rw [BitVec.toNat_twoPow, Nat.mod_eq_of_lt (Nat.pow_lt_pow_right (by omega) h)] at e
  exact absurd (show 2 ^ d = 0 from e) (by simp)

/-- With the latched address's device selected, some chip-select is active. -/
theorem State.Selected.anySelected {s : State} (h : s.Selected) : anySelected s = true := by
  unfold Machine.anySelected
  rw [h.2]
  exact decide_eq_true (ChipSelects.onehot_bits_ne_zero h.1)

/-! ### Runs: the last cycle of a run, and the words sampled in one -/

theorem runCycles_last {s t : State} {n : Nat} (h : runCycles n s = .next t) : runCycles (n + 1) s = step t := by
  rw [runCycles_add h 1, runCycles_succ]
  cases step t <;> rfl

theorem wordSampled_later {s t : State} {n : Nat} (h : ∀ k, t.inputsAt k = s.inputsAt (k + n)) (k : Nat) :
    wordSampled k t = wordSampled (k + n) s := by
  unfold wordSampled
  rw [h, h, h, h, Nat.add_right_comm k n 1, Nat.add_right_comm k n 2, Nat.add_right_comm k n 3]

end Sys2Proof.Machine
end

