-- ==== Sys2Proof/Laws/PerInstr.lean ====
section
/-!
SUPPORT. The family TableRow: every operation's word is a word of its row of opcode_table.json.
-/
namespace Sys2Proof.Laws.TableRow

/-- The row of `i` is one of the table's, and the word of `i` is one of the row's. -/
def Statement (i : Instr) : Prop :=
  i.row ∈ opcodeTable ∧ (encode i).inRow i.row = true

/-- The mask of a concatenation, part by part. -/
theorem append_and {m n : Nat} {x c x' : BitVec m} {y d y' : BitVec n} (hx : x &&& c = x') (hy : y &&& d = y') :
    (x ++ y) &&& (c ++ d) = x' ++ y' := by
  rw [BitVec.and_append, hx, hy]

/-- A mask that holds the top bits only keeps them. -/
theorem append_and_high {m n : Nat} (x c : BitVec m) (y : BitVec n) : (x ++ y) &&& (c ++ 0#n) = (x &&& c) ++ 0#n := by
  rw [BitVec.and_append, BitVec.and_zero]

theorem busRead (adr : WordAdr) : Statement (.busRead adr) := by
  have h : BitVec.ofNat 32 0xC0000000 = 0b11#2 ++ 0#30 := by decide
  have e : (0b11#2 ++ adr) &&& BitVec.ofNat 32 0xC0000000 = BitVec.ofNat 32 0xC0000000 := by
    rw [h]; exact (append_and_high _ _ _).trans (by decide)
  exact ⟨by simp [Instr.row, opcodeTable], by
    simp only [encode, PortWord.inRow, Instr.row, PortWord.nbits]; exact Bool.and_eq_true_iff.2 ⟨rfl, beq_iff_eq.2 e⟩⟩

theorem busNoreqCyc (stb : Bool) (adr : WordAdr) : Statement (.busNoreqCyc stb adr) := by
  have h : BitVec.ofNat 32 0x80000000 = 0b10#2 ++ 0#30 := by decide
  have e : (0#1 ++ BitVec.ofBool stb ++ adr) &&& BitVec.ofNat 32 0x80000000 = BitVec.ofNat 32 0x00000000 := by
    rw [h]; exact (append_and_high _ _ _).trans (by cases stb <;> decide)
  exact ⟨by simp [Instr.row, opcodeTable], by
    simp only [encode, PortWord.inRow, Instr.row, PortWord.nbits]; exact Bool.and_eq_true_iff.2 ⟨rfl, beq_iff_eq.2 e⟩⟩

theorem busNoreqStb (adr : WordAdr) : Statement (.busNoreqStb adr) := by
  have h : BitVec.ofNat 32 0xC0000000 = 0b11#2 ++ 0#30 := by decide
  have e : (0b10#2 ++ adr) &&& BitVec.ofNat 32 0xC0000000 = BitVec.ofNat 32 0x80000000 := by
    rw [h]; exact (append_and_high _ _ _).trans (by decide)
  exact ⟨by simp [Instr.row, opcodeTable], by
    simp only [encode, PortWord.inRow, Instr.row, PortWord.nbits]; exact Bool.and_eq_true_iff.2 ⟨rfl, beq_iff_eq.2 e⟩⟩

theorem ctrlWrite (wdata : BusWord) : Statement (.ctrlWrite wdata) := by
  have h : BitVec.ofNat 33 0x100000000 = 1#1 ++ 0#32 := by decide
  have e : (1#1 ++ wdata) &&& BitVec.ofNat 33 0x100000000 = BitVec.ofNat 33 0x100000000 := by
    rw [h]; exact (append_and_high _ _ _).trans (by decide)
  exact ⟨by simp [Instr.row, opcodeTable], by
    simp only [encode, PortWord.inRow, Instr.row, PortWord.nbits]; exact Bool.and_eq_true_iff.2 ⟨rfl, beq_iff_eq.2 e⟩⟩

theorem ctrlRead (wdata : BusWord) : Statement (.ctrlRead wdata) := by
  have h : BitVec.ofNat 33 0x100000000 = 1#1 ++ 0#32 := by decide
  have e : (0#1 ++ wdata) &&& BitVec.ofNat 33 0x100000000 = BitVec.ofNat 33 0x000000000 := by
    rw [h]; exact (append_and_high _ _ _).trans (by decide)
  exact ⟨by simp [Instr.row, opcodeTable], by
    simp only [encode, PortWord.inRow, Instr.row, PortWord.nbits]; exact Bool.and_eq_true_iff.2 ⟨rfl, beq_iff_eq.2 e⟩⟩

theorem caReadLinear (upper : BitVec 29) (lower : BitVec 2) : Statement (.caReadLinear upper lower) := by
  have h : BitVec.ofNat 48 0xE0000000FFF9 = 0b111#3 ++ 0#29 ++ 0b1111111111111#13 ++ 0#2 ++ 1#1 := by decide
  have e : (0b101#3 ++ upper ++ 0#13 ++ lower ++ 0#1) &&& BitVec.ofNat 48 0xE0000000FFF9 =
      BitVec.ofNat 48 0xA00000000000 := by
    rw [h]
    exact (append_and (append_and (append_and (append_and rfl (BitVec.and_zero (x := upper))) rfl)
      (BitVec.and_zero (x := lower))) rfl).trans (by decide)
  exact ⟨by simp [Instr.row, opcodeTable], by
    simp only [encode, PortWord.inRow, Instr.row, PortWord.nbits]; exact Bool.and_eq_true_iff.2 ⟨rfl, beq_iff_eq.2 e⟩⟩

end Sys2Proof.Laws.TableRow
end

