-- ==== Sys2Proof/Machine/Script.lean ====
section
/-!
DEFINITION. The transaction-script notation of 30_encoding.md R85 to R88 and the end of a script's run (00_scope.md
R19). A script is a list of operations run one after another, each driving the inputs of the cycles it lasts.
-/
namespace Sys2Proof.Machine

/-- The operations of a script (R85). -/
inductive ScriptOp where
  /-- `RESET n`: `rst = 1` for n cycles -/
  | reset (n : Nat)
  /-- `WAIT n`: n cycles with no request -/
  | wait (n : Nat)
  /-- `WCFG v`: one cycle with a control write of `v` -/
  | wcfg (v : BusWord)
  /-- `RCFG`: no cycle; observes `ctrl_rdata` -/
  | rcfg
  /-- `READ a`: cycles with the request for word `a`, up to and including its acknowledgment -/
  | read (a : WordAdr)
  deriving DecidableEq, Repr

/-- `BURST a, n` (R86): n reads of consecutive words, addresses modulo 2^30. -/
def burst (a : WordAdr) (n : Nat) : List ScriptOp :=
  (List.range n).map fun j => .read (a + BitVec.ofNat 30 j)

/-- `IDLE_OUT` (R86): ten cycles, enough for any wait window to expire. -/
def idleOut : List ScriptOp :=
  [.wait 10]

/-- The inputs of one cycle of an operation (R85), with the device's byte of that cycle. -/
def ScriptOp.inputs (op : ScriptOp) (dq : Byte) : Inputs :=
  match op with
  | .reset _ => { Inputs.quiet with rst := true, dqI := dq }
  | .wait _ => { Inputs.quiet with dqI := dq }
  | .wcfg v => { Inputs.quiet with ctrlWe := true, ctrlWdata := v, dqI := dq }
  | .rcfg => { Inputs.quiet with dqI := dq }
  | .read a => { Inputs.quiet with cyc := true, stb := true, adr := a, sel := 0b1111#4, dqI := dq }

/-- What is left of an operation after one of its cycles, given that cycle's acknowledgment (R85). -/
def ScriptOp.rest (op : ScriptOp) (acknowledged : Bool) : List ScriptOp :=
  match op with
  | .reset n => if n ≤ 1 then [] else [.reset (n - 1)]
  | .wait n => if n ≤ 1 then [] else [.wait (n - 1)]
  | .wcfg _ => []
  | .rcfg => []
  | .read a => if acknowledged then [] else [.read a]

/-- The operation takes no cycle (R85). -/
def ScriptOp.takesNoCycle (op : ScriptOp) : Bool :=
  match op with
  | .reset n => n == 0
  | .wait n => n == 0
  | .wcfg _ => false
  | .rcfg => true
  | .read _ => false

/-- A script being run: what is left of it, the state, the acknowledged words with their cycles, and the values the
RCFG operations observed, and the cycle in which the run ended. Cycles are numbered by `State.cycle`. -/
structure ScriptRun where
  ops : List ScriptOp
  state : State
  acks : List (Nat × BusWord)
  observed : List BusWord
  /-- the run's end: the first cycle of R19, none before it -/
  ended : Option Nat
  deriving DecidableEq, Repr

/-- A script about to run from a state. -/
def ScriptRun.start (ops : List ScriptOp) (s : State) : ScriptRun :=
  { ops := ops, state := s, acks := [], observed := [], ended := none }

/-- The condition of R19 on a cycle, read at its start: every request of the script has been acknowledged, and the
sequencer is in IDLE. The first cycle that meets it is the run's end.
DESIGN CHOICE (log 18): R19 speaks of the cycles after the last request's acknowledgment. A script that holds no request
has none to wait for, so every IDLE cycle of its run meets the condition, the run's first cycle included. -/
def ScriptRun.over (r : ScriptRun) : Bool :=
  (r.ops.all fun op => match op with
    | .read _ => false
    | _ => true) && r.state.state == .idle

/-- The coming cycle noted as the run's end, if it is the first that meets R19's condition. -/
def ScriptRun.noteEnd (r : ScriptRun) : ScriptRun :=
  if r.ended = none ∧ r.over = true then { r with ended := some r.state.cycle } else r

/-- One clock cycle of a script's run with the inputs of `op`, after which `rest` is left beside what is left of `op`
(R85). -/
def ScriptRun.runCycleOf (op : ScriptOp) (rest : List ScriptOp) (dq : Nat → Byte) (r : ScriptRun) :
    Host.Outcome ScriptRun Fault Refusal :=
  match step (r.state.placeInputs (op.inputs (dq r.state.cycle))) with
  | .next t =>
    .next { r with
      ops := op.rest (ack r.state) ++ rest
      state := t
      acks := if ack r.state then r.acks ++ [(r.state.cycle, datR r.state)] else r.acks }
  | .fault f => .fault f
  | .refused f => .refused f

/-- One cycle of a script's run, or one operation of no cycle (R85), the run's end being noted when the cycle starts
(R19). `dq k` is the value of `in.dq_i` in cycle k. When the operations are used up the clock goes on, each cycle as a
WAIT's, until the run has ended (DESIGN CHOICE, log 18: no rule says what a master drives then); after that nothing is
left to run. -/
def ScriptRun.advance (dq : Nat → Byte) (r : ScriptRun) : Host.Outcome ScriptRun Fault Refusal :=
  let q := r.noteEnd
  match q.ops with
  | [] => if q.ended = none then q.runCycleOf (.wait 1) [] dq else .next q
  | op :: rest =>
    if op.takesNoCycle then
      .next { q with ops := rest, observed := if op = .rcfg then q.observed ++ [ctrlRdata q.state] else q.observed }
    else q.runCycleOf op rest dq

/-- The run of a script for at most `n` such steps (R85). `ended` holds the run's end once a run is long enough to reach
it; a fault is the other end of R19, and a run that never ends has `ended = none` for every `n`. -/
def ScriptRun.run (dq : Nat → Byte) : Nat → ScriptRun → Host.Outcome ScriptRun Fault Refusal
  | 0, r => .next r.noteEnd
  | n + 1, r =>
    match r.advance dq with
    | .next q => q.run dq n
    | .fault f => .fault f
    | .refused f => .refused f

/-- The operation words of a script cycle (R87): BREQ and CREQ. -/
def ScriptOp.words (op : ScriptOp) : BitVec 32 × BitVec 33 :=
  (breqOf (op.inputs 0), creqOf (op.inputs 0))

end Sys2Proof.Machine
end

