-- ==== Sys2Proof/Laws/Script.lean ====
section
/-!
SUPPORT. The run of a script (00_scope.md R19): its end is noted once, in the first cycle that meets the condition, and
a run with nothing left stays as it is.
-/
namespace Sys2Proof.Machine

@[simp] theorem ScriptRun.noteEnd_ops (r : ScriptRun) : r.noteEnd.ops = r.ops := by
  unfold noteEnd; split <;> rfl

@[simp] theorem ScriptRun.noteEnd_state (r : ScriptRun) : r.noteEnd.state = r.state := by
  unfold noteEnd; split <;> rfl

/-- A cycle that meets R19's condition is noted, if none was before; otherwise nothing changes. -/
theorem ScriptRun.noteEnd_ended (r : ScriptRun) :
    r.noteEnd.ended = r.ended.or (if r.over then some r.state.cycle else none) := by
  unfold noteEnd
  cases h : r.ended <;> cases r.over <;> simp [h]

/-- A run whose end is noted keeps it: the noted cycle is the first. -/
theorem ScriptRun.noteEnd_of_some {r : ScriptRun} {k : Nat} (h : r.ended = some k) : r.noteEnd = r := by
  simp [noteEnd, h]

/-- A cycle of the run leaves the noted end. -/
theorem ScriptRun.runCycleOf_ended {op : ScriptOp} {rest : List ScriptOp} {dq : Nat → Byte} {r q : ScriptRun}
    (h : r.runCycleOf op rest dq = .next q) : q.ended = r.ended := by
  unfold runCycleOf at h
  split at h <;> cases h
  rfl

/-- After a step the noted end is the one before it, or the step's own cycle if that is the first to meet R19's
condition. -/
theorem ScriptRun.advance_ended {dq : Nat → Byte} {r q : ScriptRun} (h : r.advance dq = .next q) :
    q.ended = r.noteEnd.ended := by
  unfold advance at h
  dsimp only at h
  split at h
  · split at h
    · exact runCycleOf_ended h
    · cases h; rfl
  · split at h
    · cases h; rfl
    · exact runCycleOf_ended h

/-- Once noted, the end of a run never changes. -/
theorem ScriptRun.run_ended {dq : Nat → Byte} {n k : Nat} {r q : ScriptRun} (hk : r.ended = some k)
    (h : r.run dq n = .next q) : q.ended = some k := by
  induction n generalizing r with
  | zero => cases h; rw [noteEnd_of_some hk, hk]
  | succ n ih =>
    unfold run at h
    split at h <;> try cases h
    rename_i t ht
    exact ih (by rw [advance_ended ht, noteEnd_of_some hk, hk]) h

/-- A run without a noted end has not reached a cycle that meets R19's condition. -/
theorem ScriptRun.not_over_of_ended_none {dq : Nat → Byte} {n : Nat} {r q : ScriptRun} (h : r.run dq n = .next q)
    (hn : q.ended = none) : r.over = false := by
  cases ho : r.over with
  | false => rfl
  | true =>
    obtain ⟨k, hk⟩ : ∃ k, r.noteEnd.ended = some k := by
      rw [noteEnd_ended, ho]
      cases r.ended <;> simp
    cases n with
    | zero => cases h; rw [hk] at hn; cases hn
    | succ n =>
      unfold run at h
      split at h <;> try cases h
      rename_i t ht
      rw [run_ended (by rw [advance_ended ht, hk]) h] at hn
      cases hn

/-- A run with nothing left that has ended stays as it is. -/
theorem ScriptRun.advance_of_ended {dq : Nat → Byte} {r : ScriptRun} {k : Nat} (hk : r.ended = some k)
    (ho : r.ops = []) : r.advance dq = .next r := by
  simp [advance, noteEnd_of_some hk, ho, hk]

end Sys2Proof.Machine
end

