-- ==== Sys2Proof/Tests/Slice0.lean ====
section
/-!
SUPPORT. Tests against vectors of 95_test_vectors.md (each names its vector), the encoding tests with words written out
bit by bit from 30_encoding.md, and one witness per statement that its hypotheses can be met, clause by clause.
-/
namespace Sys2Proof.Tests
open Sys2Proof Sys2Proof.Machine

/-! ### Small states -/

/-- A cycle with the request for `adr`. -/
def request (adr : WordAdr) : Inputs :=
  { Inputs.quiet with cyc := true, stb := true, adr := adr }

/-- A cycle with the data pins at `b`. -/
def sample (b : Byte) : Inputs :=
  { Inputs.quiet with dqI := b }

/-- A reset cycle. -/
def resetInputs : Inputs :=
  { Inputs.quiet with rst := true }

/-- IDLE with the given coming cycles. -/
def idle (script : List Inputs) : State :=
  { State.reset with script := script }

/-- A state with device 0 selected and word 0 latched. -/
def busy (st : SeqState) (c : BitVec 8) (script : List Inputs) : State :=
  { State.reset with
    state := st, counter := c, cs := ChipSelects.onehot 2 0, dqOe := st == .waitCa, ck := c.getLsbD 0,
    script := script }

/-- WAIT_NEXT with the window at `w` and `la` latched. -/
def window (w : BitVec 4) (la : WordAdr) (script : List Inputs) : State :=
  { busy .waitNext 0 script with wcount := w, lastAdr := la }

/-- The outcome is a next state with property `p`. -/
def nextHas (o : Host.Outcome State Fault Refusal) (p : State → Bool) : Bool :=
  match o with
  | .next t => p t
  | _ => false

/-! ### Encodings: words written out bit by bit -/

/-- R74, E4: `cyc = 1`, `stb = 1`, `adr = 0x200005`. -/
theorem test_decode_busRead :
    decodeTableWord 32 0b11000000001000000000000000000101 = some (.busRead 0x200005) := by decide

/-- R74, E4: `cyc = 0`, `stb = 1`, `adr = 5`. -/
theorem test_decode_busNoreqCyc :
    decodeTableWord 32 0b01000000000000000000000000000101 = some (.busNoreqCyc true 5) := by decide

/-- R74, E4: `cyc = 1`, `stb = 0`, `adr = 5`. -/
theorem test_decode_busNoreqStb :
    decodeTableWord 32 0b10000000000000000000000000000101 = some (.busNoreqStb 5) := by decide

/-- R75, E4: `ctrl_we = 1`, `ctrl_wdata = 0xFFFFFFE5`. -/
theorem test_decode_ctrlWrite :
    decodeTableWord 40 0b111111111111111111111111111100101 = some (.ctrlWrite 0xFFFFFFE5) := by decide

/-- R75, E4: `ctrl_we = 0`, `ctrl_wdata = 0xFFFFFFFF`. -/
theorem test_decode_ctrlRead :
    decodeTableWord 40 0b011111111111111111111111111111111 = some (.ctrlRead 0xFFFFFFFF) := by decide

/-- R64, E1: the packet of word 5: 101, upper address 1, reserved 0, lower address 01, LSB 0. -/
theorem test_decode_caReadLinear :
    decodeTableWord 48 0b101000000000000000000000000000010000000000000010 = some (.caReadLinear 1 1) := by decide

/-- R67, R69: each bit of the reserved field and the address LSB, set alone, is refused, and so is a constant field that
is not 101 (R65). -/
theorem test_decode_refuses_packets :
    (∀ j, j < 16 → j ≠ 1 → j ≠ 2 → decodeTableWord 48 (0xA00000000000 + 2 ^ j) = none) ∧
    (∀ c, c < 8 → c ≠ 5 → decodeTableWord 48 (c * 2 ^ 45) = none) := by decide

/-- No format is wider than 48 bits, and no bit may stand above a word. -/
theorem test_decode_refuses_widths :
    decodeTableWord 56 0 = none ∧ decodeTableWord 32 (2 ^ 32) = none ∧ decodeTableWord 40 (2 ^ 33) = none ∧
      decodeTableWord 48 (2 ^ 48) = none := by decide

/-- R50: the packet of word 5 as it travels, most significant byte first; two bytes are no word. -/
theorem test_decode_bytes :
    (decodeBytes [0xA0, 0x00, 0x00, 0x01, 0x00, 0x02]).toOption = some (.caReadLinear 1 1) ∧
      (decodeBytes [0xC0, 0x20, 0x00, 0x05]).toOption = some (.busRead 0x200005) ∧
      (decodeBytes [0xC0, 0x20]).toOption = none := by decide

/-- opcode_table.json: no two rows share a word. -/
theorem test_rows_disjoint : opcodeTable.Pairwise (fun r q => r.disjoint q = true) := by decide

/-- R66: a packet whose upper address is no zero-extended 28-bit field is ill-formed; at 28 bits it is well-formed. -/
theorem test_wellFormed_caReadLinear :
    (Instr.caReadLinear 0x10000000 0).wellFormed = false ∧ (Instr.caReadLinear 0x0FFFFFFF 3).wellFormed = true := by
  decide

/-- E1: the packets of words 0x1FFFFF, 0x200005 and 0x3FFFFFFF, with the device bits kept and stripped. -/
theorem test_caPacket :
    caPacket Params.testVectors 0x1FFFFF = 0xA007FFFF0006 ∧ caPacket Params.testVectors 0x200005 = 0xA00800010002 ∧
    caPacket Params.testVectors 0x3FFFFFFF = 0xAFFFFFFF0006 ∧
    caPacket { Params.testVectors with caStripDeviceBits := true } 0x200005 = 0xA00000010002 ∧
    caPacket { Params.testVectors with caStripDeviceBits := true } 0x3FFFFFFF = 0xA007FFFF0006 := by decide

/-- E2, rows 1 to 13. -/
theorem test_cont :
    cont 1 0 ∧ !cont 0 0 ∧ !cont 0 1 ∧ !cont 2 0 ∧ cont 0x3F 0x3E ∧ !cont 0x40 0x3F ∧ cont 0x41 0x40 ∧
    cont 0x3FFFFFFF 0x3FFFFFFE ∧ !cont 0 0x3FFFFFFF ∧ !cont 0x200001 0 ∧ cont 0x200001 0x200000 ∧ cont 0x7F 0x7E ∧
    !cont 0x80 0x7F := by decide

/-- E3: the device index at each end of each device. -/
theorem test_dev :
    dev Params.testVectors 0x1FFFFF = 0 ∧ dev Params.testVectors 0x200000 = 1 ∧ dev Params.testVectors 0x3FFFFF = 1 ∧
    dev Params.testVectors 0x400000 = 2 ∧ dev Params.testVectors 0x3FFFFFFF = 511 := by decide

/-! ### One step -/

/-- S2. -/
theorem test_busRead_fresh :
    nextHas (exec (.busRead 0x200005) (idle [Inputs.quiet])) (fun t =>
      t.state == .waitCa && t.cs == ⟨2, 0b10#2⟩ && t.dqOe && t.sr == 0xA00800010002 && t.counter == 6 &&
        t.lastAdr == 0x200005) = true := by decide

/-- S22: the request beats the window's expiry. -/
theorem test_busRead_continuation :
    nextHas (exec (.busRead 5) (window 1 4 [Inputs.quiet])) (fun t =>
      t.state == .shiftDat && t.counter == 4 && t.lastAdr == 5 && t.wcount == 0 && t.cs == ⟨2, 0b01#2⟩) = true := by
  decide

/-- S20, S21: the window at 2 counts, at 1 it expires. -/
theorem test_busNoreqCyc_window :
    nextHas (exec (.busNoreqCyc true 1) (window 2 0 [Inputs.quiet])) (fun t => t.state == .waitNext && t.wcount == 1) =
      true ∧
    nextHas (exec (.busNoreqCyc true 1) (window 1 0 [Inputs.quiet])) (fun t =>
      t.state == .idle && t.wcount == 0 && t.cs == ⟨2, 0b00#2⟩) = true := by decide

/-- S12: the WAIT_LAT exit's clear wins over the shift. -/
theorem test_busNoreqCyc_clear :
    nextHas (exec (.busNoreqCyc false 0) { busy .waitLat 1 [sample 0x24] with sr := 0x1E1F20212223 }) (fun t =>
      t.state == .shiftDat && t.counter == 4 && t.sr == 0) = true := by decide

/-- S23. -/
theorem test_busNoreqStb_window :
    nextHas (exec (.busNoreqStb 1) (window 9 0 [Inputs.quiet])) (fun t => t.state == .waitNext && t.wcount == 8) =
      true := by decide

/-- S15. -/
theorem test_busNoreqStb_lastByte :
    nextHas (exec (.busNoreqStb 0) { busy .shiftDat 1 [sample 0x28] with sr := 0x000000252627 }) (fun t =>
      t.state == .ackXfer && t.counter == 0 && t.sr == 0x000025262728) = true := by decide

/-- S10: the old latency is loaded, the new one is stored. -/
theorem test_ctrlWrite_exitCycle :
    nextHas (exec (.ctrlWrite 2) (busy .waitCa 1 [Inputs.quiet])) (fun t =>
      t.state == .waitLat && t.counter == 30 && t.latency == 2 && !t.dqOe) = true := by decide

/-- L3: bits 31:5 are ignored, and the old value stands on the port. -/
theorem test_ctrlWrite_lowBits :
    nextHas (exec (.ctrlWrite 0xFFFFFFE5) { idle [Inputs.quiet] with latency := 7 }) (fun t =>
      t.latency == 5 && t.out.any (fun o => o.ctrlRdata == 7)) = true := by decide

/-- L1. -/
theorem test_ctrlRead_reset :
    nextHas (exec (.ctrlRead 0) (idle [Inputs.quiet])) (fun t =>
      t.latency == 16 && t.out.any (fun o => o.ctrlRdata == 0x10)) = true := by decide

/-- S16. -/
theorem test_ctrlRead_ack :
    nextHas (exec (.ctrlRead 0) { busy .ackXfer 0 [Inputs.quiet] with sr := 0x000025262728 }) (fun t =>
      t.state == .waitNext && t.wcount == 9 && t.out.any (fun o => o.ack && o.datR == 0x25262728)) = true := by decide

/-- E1 and P1: the packet of word 5 starts: byte a0 on the pins, the rest one byte up, `ck` rises (K1). -/
theorem test_caReadLinear_starts :
    nextHas (exec (.caReadLinear 1 1) (busy .waitCa 6 [sample 0x77])) (fun t =>
      t.counter == 5 && t.sr == 0x000001000277 && t.ck && t.out.any (fun o => o.dqO == 0xA0 && o.dqOe)) = true := by
  decide

/-- S4: in a later WAIT_CA cycle no packet starts, and the shift goes on. -/
theorem test_caReadLinear_elsewhere :
    nextHas (exec (.caReadLinear 1 1) { busy .waitCa 3 [sample 0x77] with sr := 1 }) (fun t =>
      t.state == .waitCa && t.counter == 2 && t.sr == 0x177) = true := by decide

/-- K3: reset in WAIT_LAT clears the clock in phase N. -/
theorem test_reset_clock :
    nextHas (step (busy .waitLat 17 [resetInputs])) (fun t => !t.ck && t.state == .idle && t.out.any (fun o => !o.resetN)) =
      true := by decide

/-- Log 5: a word placed after reset is run by the next step: a request, a control write, a packet. -/
theorem test_placed_words :
    nextHas (step (State.reset.withFetchWord 32 0xC0000005)) (fun t => t.state == .waitCa && t.lastAdr == 5) = true ∧
    nextHas (step (State.reset.withFetchWord 40 0x100000007)) (fun t => t.latency == 7) = true ∧
    nextHas (step (State.reset.withFetchWord 48 0xA00000010002)) (fun t =>
      t.counter == 5 && t.out.any (fun o => o.dqO == 0xA0)) = true := by decide

/-- R85 to R87: the operation words of a script's cycles (program P3). -/
theorem test_script_words :
    (ScriptOp.wcfg 7).words = (0x00000000, 0x100000007) ∧ (ScriptOp.read 100).words = (0xC0000064, 0) := by decide

/-- R19: with its operations used up, a run in the window's last cycle goes on one cycle and ends there, in IDLE; the
cycle before is not its end. -/
theorem test_script_end :
    (match ScriptRun.run (fun _ => 0) 1 (.start [] (window 1 0 [])) with
      | .next r => r.ended == some 1 && r.state.state == .idle
      | _ => false) = true ∧
    (ScriptRun.start [] (window 1 0 [])).noteEnd.ended = none := by decide

/-! ### Witnesses: the hypotheses of each statement can be met -/

theorem witness_DecodeInvertsEncode : decodeTableWord 48 0xAFFFFFFF0006 = some (.caReadLinear 0x0FFFFFFF 3) := by
  decide

theorem witness_TransmittedPacketZeroFields :
    (idle [Inputs.quiet]).state = .idle ∧ (idle [Inputs.quiet]).inputs.rst = false ∧
      dev (idle [Inputs.quiet]).params 0x3FFFFF < (idle [Inputs.quiet]).params.nCs := by
  and_intros <;> decide

theorem witness_PacketFields :
    Params.testVectors.caStripDeviceBits = false ∧
      { Params.testVectors with caStripDeviceBits := true }.caStripDeviceBits = true := by
  and_intros <;> decide

theorem witness_PacketCarriesTheWholeAddress :
    Params.testVectors.caStripDeviceBits = false ∧ { Params.testVectors with nCs := 1 }.caStripDeviceBits = false ∧
      caPacket Params.testVectors 0x3FFFFFFF = caPacket { Params.testVectors with nCs := 1 } 0x3FFFFFFF := by
  and_intros <;> decide

theorem witness_StrippingAgreesOnDeviceZero :
    Params.testVectors.Valid ∧ dev Params.testVectors 0x1FFFFF = 0 := by
  and_intros <;> decide

theorem witness_StepRunsTheDecodedOperation_bus :
    decode (.breq (breqOf (idle [request 5]).inputs)) = .ok (.busRead 5) := rfl

theorem witness_StepRunsTheDecodedOperation_ctrl :
    decode (.creq (creqOf (idle [{ Inputs.quiet with ctrlWe := true, ctrlWdata := 7 }]).inputs)) = .ok (.ctrlWrite 7) :=
  rfl

theorem witness_StepRunsTheDecodedOperation_packet :
    (busy .waitCa 6 []).state = .waitCa ∧ (busy .waitCa 6 []).counter = 6 ∧
      decode (.ca { busy .waitCa 6 [] with sr := 0xA00000010002 }.sr) = .ok (.caReadLinear 1 1) :=
  ⟨rfl, rfl, rfl⟩

theorem witness_PlacedWordIsRun :
    decodeTableWord 32 0xC0000005 = some (.busRead 5) ∧ decodeTableWord 40 0x100000007 = some (.ctrlWrite 7) ∧
      decodeTableWord 48 0xA00000010002 = some (.caReadLinear 1 1) := by
  and_intros <;> decide

theorem witness_CycleFaultsExactlyWhen :
    raisesUnmapped (drivenBy (.busRead 0x400000) (idle [Inputs.quiet]).inputs) (idle [Inputs.quiet]) = true ∧
    faultFree (drivenBy (.busRead 0x3FFFFF) (idle [Inputs.quiet]).inputs) (idle [Inputs.quiet]) = true ∧
    raisesLatencyZero Inputs.quiet { busy .waitCa 1 [Inputs.quiet] with latency := 0 } = true ∧
    faultFree Inputs.quiet { busy .waitCa 1 [Inputs.quiet] with latency := 1 } = true := by
  and_intros <;> decide

/-- S3, S9: the two faults, with the recorded info. -/
theorem test_faults :
    step (idle [request 0x400000]) = .fault (.unmappedDevice 0x400000) ∧
      step { busy .waitCa 1 [Inputs.quiet] with latency := 0, lastAdr := 3 } = .fault (.latencyZero 0 3) :=
  ⟨rfl, rfl⟩

/-- For OutputsOfACycle, DerivedClockUpdate, ChipSelectWriters, OutputEnableWriters and RegisterWriters: cycles without
reset that answer, in each sequencer state. -/
theorem witness_cycles_that_answer :
    (∀ st ∈ [SeqState.waitCa, .waitLat, .shiftDat], nextHas (exec (.busRead 1) (busy st 2 [Inputs.quiet])) (fun _ => true) =
      true) ∧
    nextHas (exec (.busRead 1) (busy .ackXfer 0 [Inputs.quiet])) (fun _ => true) = true ∧
    nextHas (exec (.busRead 1) (window 1 0 [Inputs.quiet])) (fun _ => true) = true ∧
    nextHas (exec (.busRead 0) (idle [Inputs.quiet])) (fun _ => true) = true ∧
    (idle [Inputs.quiet]).inputs.rst = false := by
  and_intros <;> decide

/-- OutputsOfACycle and DerivedClockUpdate in a reset cycle. -/
theorem witness_OutputsOfACycle_reset :
    nextHas (exec (.busRead 0) (idle [resetInputs])) (fun t => t.out.isSome) = true := by
  decide

/-- ChipSelectWriters, by clause: IDLE, WAIT_NEXT, neither; and the invariant. -/
theorem witness_ChipSelectWriters :
    (idle [Inputs.quiet]).Inv ∧ (window 1 0 [Inputs.quiet]).Inv ∧ (busy .waitLat 2 [Inputs.quiet]).Inv ∧
      (busy .waitLat 2 []).state ≠ .idle ∧ (busy .waitLat 2 []).state ≠ .waitNext := by
  and_intros <;> decide

/-- OutputEnableWriters, by clause: IDLE to WAIT_CA, WAIT_CA to WAIT_LAT, neither. -/
theorem witness_OutputEnableWriters :
    nextHas (exec (.busRead 0) (idle [Inputs.quiet])) (fun t => t.state == .waitCa) = true ∧
    nextHas (exec (.busRead 0) (busy .waitCa 1 [Inputs.quiet])) (fun t => t.state == .waitLat) = true ∧
    nextHas (exec (.busRead 0) (busy .waitCa 2 [Inputs.quiet])) (fun t => t.state == .waitCa) = true := by
  and_intros <;> decide

/-- ClockStoppedWhileNoTransaction: no chip-select; the invariant in IDLE, ACK_XFER and WAIT_NEXT. -/
theorem witness_ClockStoppedWhileNoTransaction :
    (idle [Inputs.quiet]).cs.bits = 0 ∧ (idle [Inputs.quiet]).Inv ∧ (busy .ackXfer 0 [Inputs.quiet]).Inv ∧
      (window 9 0 [Inputs.quiet]).Inv := by
  and_intros <;> decide

/-- IdleStep: the last mapped and the first unmapped word. -/
theorem witness_IdleStep :
    (idle [Inputs.quiet]).Inv ∧ (idle [Inputs.quiet]).inputs.rst = false ∧
      dev (idle []).params 0x3FFFFF < (idle []).params.nCs ∧ (idle []).params.nCs ≤ dev (idle []).params 0x400000 := by
  and_intros <;> decide

/-- WaitNextStep: a continuation, the page's end, and the window at 1 and at 2. -/
theorem witness_WaitNextStep :
    (window 1 0x3E [Inputs.quiet]).Inv ∧ (window 2 0x3F [Inputs.quiet]).Inv ∧
      (window 1 0x3E [Inputs.quiet]).inputs.rst = false ∧ (window 2 0x3F [Inputs.quiet]).inputs.rst = false ∧
      cont 0x3F (window 1 0x3E []).lastAdr = true ∧ cont 0x40 (window 2 0x3F []).lastAdr = false := by
  and_intros <;> decide

theorem witness_AckXferStep :
    (busy .ackXfer 0 [Inputs.quiet]).Inv ∧ (busy .ackXfer 0 [Inputs.quiet]).inputs.rst = false := by
  and_intros <;> decide

/-- WaitCaPhase: its hypotheses; and after five cycles latency 0 and latency 16. -/
theorem witness_WaitCaPhase :
    (busy .waitCa 6 (List.replicate 6 Inputs.quiet)).Inv ∧ NoReset 6 (busy .waitCa 6 (List.replicate 6 Inputs.quiet)) ∧
    nextHas (runCycles 5 (busy .waitCa 6 (List.replicate 6 Inputs.quiet))) (fun u => u.latency != 0) = true ∧
    nextHas (runCycles 5 { busy .waitCa 6 (List.replicate 6 Inputs.quiet) with latency := 0 }) (fun u => u.latency == 0) =
      true := by
  and_intros <;> decide

/-- WaitLatPhase: one cycle to go, and two. -/
theorem witness_WaitLatPhase :
    (busy .waitLat 1 [Inputs.quiet]).Inv ∧ NoReset 1 (busy .waitLat 1 [Inputs.quiet]) ∧
      (busy .waitLat 2 [Inputs.quiet, Inputs.quiet]).Inv ∧ NoReset 2 (busy .waitLat 2 [Inputs.quiet, Inputs.quiet]) := by
  and_intros <;> decide

theorem witness_ShiftDatPhase :
    (busy .shiftDat 4 (List.replicate 4 Inputs.quiet)).Inv ∧
      NoReset 4 (busy .shiftDat 4 (List.replicate 4 Inputs.quiet)) := by
  and_intros <;> decide

theorem witness_BusyBlockIgnoresTheBus :
    (busy .waitCa 6 []).state = .waitCa ∧ (busy .waitLat 2 []).state = .waitLat ∧
      (busy .shiftDat 4 []).state = .shiftDat ∧ (busy .ackXfer 0 []).state = .ackXfer := by
  and_intros <;> decide

/-- ControlWriteStoresFiveBits and ControlReadShowsTheLatency. -/
theorem witness_control_operations :
    (idle [Inputs.quiet]).inputs.rst = false ∧ faultFree (idle [Inputs.quiet]).inputs (idle [Inputs.quiet]) = true := by
  and_intros <;> decide

/-- LatencyPersists, by clause: reset, a write, neither. -/
theorem witness_LatencyPersists :
    nextHas (exec (.ctrlWrite 5) (idle [resetInputs])) (fun _ => true) = true ∧ (idle [resetInputs]).inputs.rst = true ∧
    nextHas (exec (.ctrlWrite 5) (idle [Inputs.quiet])) (fun _ => true) = true ∧
      (drivenBy (.ctrlWrite 5) (idle [Inputs.quiet]).inputs).ctrlWe = true ∧
    nextHas (exec (.ctrlRead 5) (idle [Inputs.quiet])) (fun _ => true) = true ∧
      (drivenBy (.ctrlRead 5) (idle [Inputs.quiet]).inputs).ctrlWe = false := by
  and_intros <;> decide

theorem witness_LatencyWriteInExitCycleUnused :
    { busy .waitCa 1 [Inputs.quiet] with latency := 1 }.state = .waitCa ∧
      { busy .waitCa 1 [Inputs.quiet] with latency := 1 }.counter = 1 ∧
      { busy .waitCa 1 [Inputs.quiet] with latency := 1 }.latency ≠ 0 ∧
      { busy .waitCa 1 [Inputs.quiet] with latency := 1 }.inputs.rst = false := by
  and_intros <;> decide

theorem witness_PacketTransmissionStarts :
    (busy .waitCa 6 [Inputs.quiet]).Inv ∧ (busy .waitCa 6 [Inputs.quiet]).inputs.rst = false := by
  and_intros <;> decide

theorem witness_PacketElsewhereIsThePlainCycle :
    (idle []).state ≠ .waitCa ∧ (busy .waitCa 5 []).counter ≠ 6 := by
  and_intros <;> decide

/-- ResetCycle: a reset cycle and the cycle after it. -/
theorem witness_ResetCycle :
    (idle [resetInputs, Inputs.quiet]).inputs.rst = true ∧
    nextHas (exec (.busRead 0x400000) (idle [resetInputs, Inputs.quiet])) (fun t =>
      !t.inputs.rst && nextHas (step t) (fun u => u.out.isSome)) = true := by
  and_intros <;> decide

/-- ResetSatisfiesTheTable: the parameters at both ends of R9's range. -/
theorem witness_ResetSatisfiesTheTable :
    Params.testVectors.Valid ∧ { Params.testVectors with nCs := 1, devWordBits := 30 }.Valid ∧
      { Params.testVectors with nCs := 2 ^ 24, devWordBits := 6 }.Valid := by
  and_intros <;> decide

theorem witness_StepKeepsTheStateTable :
    (idle [request 0]).Inv ∧ nextHas (step (idle [request 0])) (fun _ => true) = true ∧
      nextHas (exec (.ctrlWrite 0) (idle [request 0])) (fun _ => true) = true := by
  and_intros <;> decide

/-- FreshReadIsAcknowledged at the lowest latency, 2. -/
theorem witness_FreshReadIsAcknowledged :
    { idle (List.replicate 13 (request 0x3FFFFF)) with latency := 2 }.Inv ∧
    Requests 0 0x3FFFFF { idle (List.replicate 13 (request 0x3FFFFF)) with latency := 2 } ∧
    dev Params.testVectors 0x3FFFFF < Params.testVectors.nCs ∧
    NoControlWrite 6 { idle (List.replicate 13 (request 0x3FFFFF)) with latency := 2 } ∧
    NoReset 13 { idle (List.replicate 13 (request 0x3FFFFF)) with latency := 2 } := by
  and_intros <;> decide

theorem witness_ContinuationIsAcknowledged :
    (window 1 0x3E (List.replicate 5 (request 0x3F))).Inv ∧
    Requests 0 0x3F (window 1 0x3E (List.replicate 5 (request 0x3F))) ∧ cont 0x3F 0x3E = true ∧
    NoReset 5 (window 1 0x3E (List.replicate 5 (request 0x3F))) := by
  and_intros <;> decide

theorem witness_RestartIsAcknowledged :
    { window 9 0x3F (List.replicate 14 (request 0x40)) with latency := 2 }.Inv ∧
    Requests 0 0x40 { window 9 0x3F (List.replicate 14 (request 0x40)) with latency := 2 } ∧
    Requests 1 0x40 { window 9 0x3F (List.replicate 14 (request 0x40)) with latency := 2 } ∧
    cont 0x40 0x3F = false ∧ dev Params.testVectors 0x40 < Params.testVectors.nCs ∧
    NoControlWrite 7 { window 9 0x3F (List.replicate 14 (request 0x40)) with latency := 2 } ∧
    NoReset 14 { window 9 0x3F (List.replicate 14 (request 0x40)) with latency := 2 } := by
  and_intros <;> decide

theorem witness_SequentialReadsSixApart :
    { busy .ackXfer 0 (List.replicate 6 (request 0x3F)) with lastAdr := 0x3E }.Inv ∧ pageField 0x3E ≠ 63 ∧
    Requests 1 (0x3E + 1) { busy .ackXfer 0 (List.replicate 6 (request 0x3F)) with lastAdr := 0x3E } ∧
    NoReset 6 { busy .ackXfer 0 (List.replicate 6 (request 0x3F)) with lastAdr := 0x3E } := by
  and_intros <;> decide

theorem witness_WindowExpiresAfterNineCycles :
    (busy .ackXfer 0 (List.replicate 10 Inputs.quiet)).Inv ∧
    NoReset 10 (busy .ackXfer 0 (List.replicate 10 Inputs.quiet)) ∧
    NoRequest 10 (busy .ackXfer 0 (List.replicate 10 Inputs.quiet)) := by
  and_intros <;> decide

theorem witness_HangLastsUntilReset :
    (busy .waitLat 0 [request 0, request 1]).Inv ∧ NoReset 2 (busy .waitLat 0 [request 0, request 1]) := by
  and_intros <;> decide

/-- The entries of WAIT_LAT, SHIFT_DAT (both ways) and ACK_XFER, for the second clauses of WaitLatPhase, ShiftDatPhase
and AckXferStep. -/
theorem witness_phase_entries :
    nextHas (exec (.busRead 0) (busy .waitCa 1 [Inputs.quiet])) (fun t => t.state == .waitLat) = true ∧
    nextHas (exec (.busRead 0) (busy .waitLat 1 [Inputs.quiet])) (fun t => t.state == .shiftDat) = true ∧
    nextHas (exec (.busRead 1) (window 9 0 [Inputs.quiet])) (fun t => t.state == .shiftDat) = true ∧
    nextHas (exec (.busRead 0) (busy .shiftDat 1 [Inputs.quiet])) (fun t => t.state == .ackXfer) = true := by
  and_intros <;> decide

/-- DataPinsDoNotSteer: two states that differ in the shift register and in the sampled byte. -/
theorem witness_DataPinsDoNotSteer :
    SameButData (busy .shiftDat 2 [sample 1]) { busy .shiftDat 2 [sample 2] with sr := 3 } where
  state := rfl
  counter := rfl
  wcount := rfl
  cs := rfl
  dqOe := rfl
  lastAdr := rfl
  latency := rfl
  ck := rfl
  params := rfl
  cycle := rfl
  inputs k := by cases k <;> exact ⟨rfl, rfl, rfl, rfl, rfl, rfl⟩

theorem witness_ContinuationKeepsTheDevice :
    Params.testVectors.Valid ∧ cont 0x200001 0x200000 = true ∧ (window 1 0 []).Inv ∧
      (window 1 0 []).params.nCs ≤ dev (window 1 0 []).params 0x400000 := by
  and_intros <;> decide

end Sys2Proof.Tests
end

section
/-! The writers of the output-enable (10_state.md R25). -/
namespace Sys2Proof.Machine

/-- A cycle without reset that answers answers the closed form of the inputs its operation drives. -/
theorem exec_eq_nextOf_of_next {i : Instr} {s t : State} (hr : s.inputs.rst = false) (h : exec i s = .next t) :
    t = nextOf (drivenBy i s.inputs) (carriedIn i s) := by
  rw [exec_eq_runCycle] at h
  exact eq_nextOf_of_next (by simpa using hr) h

/-- R25 by edges of the sequencer: the edge out of IDLE sets the output-enable, the WAIT_CA to WAIT_LAT edge clears it,
and every other pair of states keeps it. -/
theorem nextDqOe_eq_of_edge (inp : Inputs) (s : State) :
    nextDqOe inp s =
      if s.state = .idle ∧ nextState inp s = .waitCa then true
      else if s.state = .waitCa ∧ nextState inp s = .waitLat then false
      else s.dqOe := by
  cases hs : s.state with
  | idle => cases hp : pending inp <;> simp [nextDqOe, nextState, hs, hp]
  | waitCa => cases hl : lastCount s <;> simp [nextDqOe, nextState, hs, hl]
  | waitLat | shiftDat | ackXfer | waitNext => simp [nextDqOe, hs]

/-- Settles O28: the cycle is the closed form, whose output-enable is the one its edge gives. A packet as carrier leaves
the sequencer state and the output-enable. -/
theorem outputEnableWriters : Obligations.OutputEnableWriters := by
  unfold Obligations.OutputEnableWriters
  intro i s t hr h
  obtain rfl := exec_eq_nextOf_of_next hr h
  have hedge := nextDqOe_eq_of_edge (drivenBy i s.inputs) (carriedIn i s)
  rw [carriedIn_state, carriedIn_dqOe] at hedge
  refine ⟨⟨_, rfl, carriedIn_dqOe i s⟩, fun haccept => ?_, fun hexit => ?_, fun hnotAccept hnotExit => ?_⟩
  · exact hedge.trans (if_pos haccept)
  · have hnotIdle : s.state ≠ .idle := by simp [hexit.1]
    exact hedge.trans ((if_neg fun haccept => hnotIdle haccept.1).trans (if_pos hexit))
  · exact hedge.trans ((if_neg hnotAccept).trans (if_neg hnotExit))

end Sys2Proof.Machine
end

section
/-! The zero fields of the packet IDLE loads (30_encoding.md R67, R69). -/
namespace Sys2Proof.Machine

/-- The reserved field of a packet, bits 15:3, lies above its lower address field and its LSB (R67). -/
@[simp] theorem packetOf_reserved (upper : BitVec 29) (lower : BitVec 2) :
    (packetOf upper lower).extractLsb' 3 13 = 0 :=
  calc (packetOf upper lower).extractLsb' 3 13
      = (1#1 ++ 0#1 ++ 1#1 ++ upper ++ 0#13 ++ lower).extractLsb' 2 13 :=
        BitVec.extractLsb'_append_eq_of_le (by decide)
    _ = (1#1 ++ 0#1 ++ 1#1 ++ upper ++ 0#13).extractLsb' 0 13 := BitVec.extractLsb'_append_eq_of_le (by decide)
    _ = 0 := BitVec.extractLsb'_append_eq_right

/-- The address LSB of a packet, bit 0 (R69). -/
@[simp] theorem packetOf_addressLsb (upper : BitVec 29) (lower : BitVec 2) :
    (packetOf upper lower).extractLsb' 0 1 = 0 :=
  BitVec.extractLsb'_append_eq_right

/-- The packet of a word address is the packet of its two address fields (R70). -/
theorem caPacket_eq_packetOf (p : Params) (adr : WordAdr) :
    caPacket p adr = packetOf (upperAddress p adr) (lowerAddress adr) := rfl

/-- A cycle in IDLE whose address is mapped raises no fault (R90, R93). -/
theorem faultFree_of_idle_of_mapped {inp : Inputs} {s : State} (hs : s.state = .idle)
    (hm : mapped s.params inp.adr = true) : faultFree inp s = true := by
  simp [faultFree, raisesUnmapped, raisesLatencyZero, hs, hm]

/-- IDLE with a request pending loads the packet of the requested address (R89). -/
theorem nextSr_of_idle_of_pending {inp : Inputs} {s : State} (hs : s.state = .idle) (hp : pending inp = true) :
    nextSr inp s = caPacket s.params inp.adr := by
  simp only [nextSr, hs, hp, if_true]

/-- A BUS_READ of a mapped word in IDLE without reset answers the closed form of the cycle it drives (R89). -/
theorem exec_busRead_of_idle_of_mapped {s : State} {adr : WordAdr} (hs : s.state = .idle)
    (hr : s.inputs.rst = false) (hm : mapped s.params adr = true) :
    exec (.busRead adr) s = .next (nextOf (drivenBy (.busRead adr) s.inputs) s) :=
  exec_closed hr (faultFree_of_idle_of_mapped hs hm)

/-- Settles O3: the cycle does not fault, its shift register is the packet of the address, and every packet is zero in
the two fields. -/
theorem transmittedPacketZeroFields : Obligations.TransmittedPacketZeroFields := by
  unfold Obligations.TransmittedPacketZeroFields
  intro s adr hs hr hdev
  have hsr : (nextOf (drivenBy (.busRead adr) s.inputs) s).sr = packetOf (upperAddress s.params adr) (lowerAddress adr) :=
    (nextSr_of_idle_of_pending hs rfl).trans (caPacket_eq_packetOf s.params adr)
  refine ⟨_, exec_busRead_of_idle_of_mapped hs hr (decide_eq_true hdev), ?_, ?_⟩
  · rw [hsr, packetOf_reserved]
  · rw [hsr, packetOf_addressLsb]

end Sys2Proof.Machine
end

section
/-! What the invariant gives of a transaction under way (10_state.md R35, R36), and the clock of such a cycle. -/
namespace Sys2Proof.Machine

/-- Outside IDLE the latched address's device is selected (R35). -/
theorem State.Inv.selected {s : State} (h : s.Inv) (hs : s.state ≠ .idle) : s.Selected := by
  obtain ⟨-, -, hCa, hLat, hDat, hAck, hNext, -, -⟩ := h
  cases hst : s.state with
  | idle => exact absurd hst hs
  | waitCa => obtain ⟨-, -, hsel, -⟩ := hCa hst; exact hsel
  | waitLat => obtain ⟨-, hsel, -⟩ := hLat hst; exact hsel
  | shiftDat => obtain ⟨-, -, hsel, -⟩ := hDat hst; exact hsel
  | ackXfer => obtain ⟨-, hsel, -⟩ := hAck hst; exact hsel
  | waitNext => obtain ⟨-, hsel, -⟩ := hNext hst; exact hsel

/-- Outside WAIT_CA the data pins are not driven (R35). -/
theorem State.Inv.dqOe_eq_false {s : State} (h : s.Inv) (hs : s.state ≠ .waitCa) : s.dqOe = false := by
  obtain ⟨-, hIdle, -, hLat, hDat, hAck, hNext, -, -⟩ := h
  cases hst : s.state with
  | idle => obtain ⟨-, -, hoe⟩ := hIdle hst; exact hoe
  | waitCa => exact absurd hst hs
  | waitLat => obtain ⟨-, -, hoe⟩ := hLat hst; exact hoe
  | shiftDat => obtain ⟨-, -, -, hoe⟩ := hDat hst; exact hoe
  | ackXfer => obtain ⟨-, -, hoe⟩ := hAck hst; exact hoe
  | waitNext => obtain ⟨-, -, hoe, -⟩ := hNext hst; exact hoe

/-- In ACK_XFER the counter is at 0 (R35). -/
theorem State.Inv.counter_of_ackXfer {s : State} (h : s.Inv) (hs : s.state = .ackXfer) : s.counter = 0 := by
  obtain ⟨-, -, -, -, -, hAck, -⟩ := h
  obtain ⟨hcounter, -⟩ := hAck hs
  exact hcounter

/-- The derived clock stands at the counter's parity (R36). -/
theorem State.Inv.ck_eq {s : State} (h : s.Inv) : s.ck = s.counter.getLsbD 0 := by
  obtain ⟨-, -, -, -, -, -, -, -, hck⟩ := h
  exact hck

/-- Only IDLE and WAIT_CA have a fault (R157). -/
theorem faultFree_of_ne {s : State} (hidle : s.state ≠ .idle) (hca : s.state ≠ .waitCa) (inp : Inputs) :
    faultFree inp s = true := by
  simp [faultFree, raisesUnmapped, raisesLatencyZero, hidle, hca]

/-- With the counter at 0 phase N holds a selected device's clock (R115). -/
theorem nextCk_of_counter_zero {inp : Inputs} {s : State} (hr : inp.rst = false) (hsel : anySelected s = true)
    (hc : s.counter = 0) : nextCk inp s = s.ck := by
  simp [nextCk, hr, hsel, active, hc]

/-- In an active cycle phase N toggles a selected device's clock (R114). -/
theorem nextCk_of_active {inp : Inputs} {s : State} (hr : inp.rst = false) (hsel : anySelected s = true)
    (ha : active s = true) : nextCk inp s = !s.ck := by
  simp [nextCk, hr, hsel, ha]

/-- The exit condition of the counted states (R91, R94, R96). -/
theorem lastCount_iff (s : State) : lastCount s = true ↔ s.counter = 1 := beq_iff_eq

end Sys2Proof.Machine
end

section
/-! The edges of the sequencer (40_sequencer.md), and the states a cycle without reset may enter. -/
namespace Sys2Proof.Machine

/-- The edges a cycle from `s` may take, each with its condition. -/
inductive Edge (inp : Inputs) (s : State) : SeqState → SeqState → Prop where
  /-- every state but ACK_XFER may keep itself (R97) -/
  | stay {st : SeqState} (hne : st ≠ .ackXfer) : Edge inp s st st
  /-- a request is accepted (R89) -/
  | accept : Edge inp s .idle .waitCa
  /-- the packet is out (R91) -/
  | packetSent (hc : s.counter = 1) : Edge inp s .waitCa .waitLat
  /-- the latency is over (R94) -/
  | latencyOver (hc : s.counter = 1) : Edge inp s .waitLat .shiftDat
  /-- the word is in (R96) -/
  | wordReceived (hc : s.counter = 1) : Edge inp s .shiftDat .ackXfer
  /-- the window opens (R97) -/
  | windowOpens : Edge inp s .ackXfer .waitNext
  /-- a continuation is accepted (R100) -/
  | continuation (hp : pending inp = true) (hcont : cont inp.adr s.lastAdr = true) : Edge inp s .waitNext .shiftDat
  /-- a restart, or the window's end (R102, R103) -/
  | release : Edge inp s .waitNext .idle

/-- The closed form's sequencer state is reached by an edge. -/
theorem edge_nextState (inp : Inputs) (s : State) : Edge inp s s.state (nextState inp s) := by
  unfold nextState
  cases s.state <;> dsimp only
  case idle =>
    split
    next => exact .accept
    next => exact .stay (by decide)
  case waitCa =>
    split
    next hl => exact .packetSent ((lastCount_iff s).1 hl)
    next => exact .stay (by decide)
  case waitLat =>
    split
    next hl => exact .latencyOver ((lastCount_iff s).1 hl)
    next => exact .stay (by decide)
  case shiftDat =>
    split
    next hl => exact .wordReceived ((lastCount_iff s).1 hl)
    next => exact .stay (by decide)
  case ackXfer => exact .windowOpens
  case waitNext =>
    split
    next hp =>
      split
      next hcont => exact .continuation hp hcont
      next => exact .release
    next =>
      split
      next => exact .release
      next => exact .stay (by decide)

/-- A cycle that ends outside IDLE is no reset cycle: it answers the closed form without a fault, along an edge. -/
theorem exec_next_of_ne_idle {i : Instr} {s t : State} (h : exec i s = .next t) (ht : t.state ≠ .idle) :
    s.inputs.rst = false ∧ faultFree (drivenBy i s.inputs) s = true ∧
      t = nextOf (drivenBy i s.inputs) (carriedIn i s) ∧
      Edge (drivenBy i s.inputs) (carriedIn i s) s.state t.state := by
  rcases exec_next h with ⟨-, rfl⟩ | ⟨hr, hf, rfl⟩
  · exact absurd rfl ht
  · have hedge := edge_nextState (drivenBy i s.inputs) (carriedIn i s)
    rw [carriedIn_state] at hedge
    exact ⟨hr, hf, rfl, hedge⟩

end Sys2Proof.Machine
end

section
/-! ACK_XFER (40_sequencer.md R97). The theorems that settle the phases stand in `Sys2Proof.Proofs`, because
`Sys2Proof.Machine.ackXferStep` is the model's own rule. -/
namespace Sys2Proof.Machine

/-- ACK_XFER opens the window and takes the control write; with the counter at 0 nothing else moves (R97, R125). -/
theorem nextOf_of_ackXfer {inp : Inputs} {s : State} (hinv : s.Inv) (hs : s.state = .ackXfer) (hr : inp.rst = false) :
    nextOf inp s = (s.openWindow.writeLatency (latencyAfter inp s)).endCycle (outputsOf inp s) := by
  have hcounter : s.counter = 0 := hinv.counter_of_ackXfer hs
  have hck : nextCk inp s = s.ck :=
    nextCk_of_counter_zero hr (hinv.selected (by simp [hs])).anySelected hcounter
  ext1 <;> simp [nextOf, nextState, nextWcount, nextCounter, nextCs, nextDqOe, nextSr, nextLastAdr, accepted, counted,
    shifted, active, hs, hcounter, hck]

/-- The cycle of any operation in ACK_XFER answers the closed form. -/
theorem exec_of_ackXfer (i : Instr) {s : State} (hs : s.state = .ackXfer) (hr : s.inputs.rst = false) :
    exec i s = .next (nextOf (drivenBy i s.inputs) s) := by
  have hexec := exec_closed (i := i) hr (faultFree_of_ne (by simp [hs]) (by simp [hs]) _)
  rwa [carriedIn_of_ne (by simp [hs])] at hexec

end Sys2Proof.Machine

namespace Sys2Proof.Proofs
open Sys2Proof.Machine

/-- Settles O15: the cycle opens the window and keeps the rest, and the only edge into ACK_XFER is SHIFT_DAT's. -/
theorem ackXferStep : Obligations.AckXferStep := by
  unfold Obligations.AckXferStep
  constructor
  · intro i s hinv hs hr
    have hexec := exec_of_ackXfer i hs hr
    rw [nextOf_of_ackXfer hinv hs (by simpa using hr)] at hexec
    have hack : Machine.ack s = true := by simp [Machine.ack, hs]
    exact ⟨_, _, hexec, rfl, rfl, hinv.counter_of_ackXfer hs, rfl, rfl, rfl, rfl, rfl, rfl, rfl, rfl, hack, rfl⟩
  · intro i s t h ht
    obtain ⟨-, -, -, hedge⟩ := exec_next_of_ne_idle h (by simp [ht])
    rw [ht] at hedge
    generalize hst : s.state = st at hedge
    cases hedge with
    | stay hne => exact absurd rfl hne
    | wordReceived hc => exact ⟨rfl, by simpa using hc⟩

end Sys2Proof.Proofs
end

section
/-! The phases the counter counts (40_sequencer.md R91, R94, R96): while it is above 1 the state stays, and every cycle
shifts one sampled byte in (R125). -/
namespace Sys2Proof.Machine

/-- The states whose length the counter gives: WAIT_CA, WAIT_LAT and SHIFT_DAT. -/
inductive SeqState.Counted : SeqState → Prop where
  | waitCa : Counted .waitCa
  | waitLat : Counted .waitLat
  | shiftDat : Counted .shiftDat

/-- The shift register after the bytes sampled in the next `j` cycles (R125). -/
def srAfter (s : State) : Nat → Packet
  | 0 => s.sr
  | j + 1 => (srAfter s j).extractLsb' 0 40 ++ (s.inputsAt j).dqI

/-- A level toggled in each of `j` cycles. -/
def toggled (level : Bool) : Nat → Bool
  | 0 => level
  | j + 1 => !toggled level j

/-- `t` is the state `j` cycles from `s`, the phase `s` is in still going on. -/
structure Within (s : State) (j : Nat) (t : State) : Prop where
  run : runCycles j s = .next t
  inputs : ∀ k, t.inputsAt k = s.inputsAt (k + j)
  state : t.state = s.state
  counter : t.counter.toNat = s.counter.toNat - j
  sr : t.sr = srAfter s j
  cs : t.cs = s.cs
  dqOe : t.dqOe = s.dqOe
  lastAdr : t.lastAdr = s.lastAdr
  ck : t.ck = toggled s.ck j

/-- A phase has gone on for no cycles. -/
theorem Within.zero (s : State) : Within s 0 s :=
  ⟨rfl, fun _ => rfl, rfl, rfl, rfl, rfl, rfl, rfl, rfl⟩

/-- The inputs met `j` cycles into a phase are the `j`-th of those to come. -/
theorem Within.inputs_eq {s t : State} {j : Nat} (h : Within s j t) : t.inputs = s.inputsAt j := by
  rw [State.inputs_eq, h.inputs, Nat.zero_add]

/-- The selected device stays selected through a phase. -/
theorem Within.anySelected_eq {s t : State} {j : Nat} (h : Within s j t) : anySelected t = anySelected s := by
  unfold anySelected; rw [h.cs]

theorem active_of_pos {s : State} (h : 0 < s.counter.toNat) : active s = true := by
  simp only [active, bne_iff_ne]
  intro h0
  simp [h0] at h

theorem lastCount_eq_false {s : State} (h : 1 < s.counter.toNat) : lastCount s = false := by
  simp only [lastCount, beq_eq_false_iff_ne]
  intro h1
  simp [h1] at h

theorem counter_eq_one_of_toNat {s : State} (h : s.counter.toNat = 1) : s.counter = 1 :=
  BitVec.eq_of_toNat_eq h

/-- Above a count of 1 a counted state has no fault: it is not IDLE, and it is not WAIT_CA's last cycle (R157). -/
theorem SeqState.Counted.faultFree {s : State} (h : s.state.Counted) (hc : 1 < s.counter.toNat) (inp : Inputs) :
    Machine.faultFree inp s = true := by
  have hidle : s.state ≠ .idle := by intro hs; rw [hs] at h; cases h
  have hl : (s.counter == 1) = false := lastCount_eq_false hc
  simp only [Machine.faultFree, raisesUnmapped, raisesLatencyZero, beq_eq_false_iff_ne.2 hidle, hl, Bool.and_false,
    Bool.false_and, Bool.not_false, Bool.and_self]

/-- The cycle after `j` cycles of a phase, if it has no reset and no fault. -/
theorem Within.runCycles_succ {s t : State} {j : Nat} (h : Within s j t) (hr : (s.inputsAt j).rst = false)
    (hf : faultFree (s.inputsAt j) t = true) : runCycles (j + 1) s = .next (nextOf (s.inputsAt j) t) := by
  rw [runCycles_last h.run, ← h.inputs_eq]
  exact step_closed (by rwa [h.inputs_eq]) (by rwa [h.inputs_eq])

/-- While the counter is above 1 a phase goes on by one more cycle. -/
theorem Within.succ {s t : State} {j : Nat} (h : Within s j t) (hst : s.state.Counted) (hsel : anySelected s = true)
    (hr : (s.inputsAt j).rst = false) (hj : j + 1 < s.counter.toNat) :
    Within s (j + 1) (nextOf (s.inputsAt j) t) := by
  have hst' : t.state.Counted := h.state ▸ hst
  have hc : 1 < t.counter.toNat := by have := h.counter; omega
  have ha : active t = true := active_of_pos (by omega)
  have hl : lastCount t = false := lastCount_eq_false hc
  have hkeep : nextState (s.inputsAt j) t = t.state ∧ nextCounter (s.inputsAt j) t = t.counter - 1 ∧
      nextSr (s.inputsAt j) t = t.sr.extractLsb' 0 40 ++ (s.inputsAt j).dqI ∧ nextCs (s.inputsAt j) t = t.cs ∧
      nextDqOe (s.inputsAt j) t = t.dqOe ∧ nextLastAdr (s.inputsAt j) t = t.lastAdr := by
    generalize hts : t.state = st at hst'
    cases hst' <;>
      simp [nextState, nextCounter, nextSr, nextCs, nextDqOe, nextLastAdr, accepted, counted, shifted, hts, ha, hl]
  obtain ⟨hstate, hcounter, hsr, hcs, hoe, hla⟩ := hkeep
  exact {
    run := h.runCycles_succ hr (hst'.faultFree hc _)
    inputs := fun k => by rw [inputsAt_nextOf, h.inputs, Nat.succ_add_eq_add_succ]
    state := hstate.trans h.state
    counter := by
      have := h.counter
      simp only [nextOf, hcounter]
      bv_omega
    sr := by rw [srAfter, ← h.sr]; exact hsr
    cs := hcs.trans h.cs
    dqOe := hoe.trans h.dqOe
    lastAdr := hla.trans h.lastAdr
    ck := by
      rw [toggled, ← h.ck]
      exact nextCk_of_active hr (h.anySelected_eq.trans hsel) ha }

/-- A counted phase goes on for as many cycles as its counter says. -/
theorem exists_within {s : State} (hst : s.state.Counted) (hsel : anySelected s = true)
    (hr : NoReset s.counter.toNat s) {j : Nat} (hj : j < s.counter.toNat) : ∃ t, Within s j t := by
  induction j with
  | zero => exact ⟨s, Within.zero s⟩
  | succ j ih =>
    obtain ⟨t, ht⟩ := ih (by omega)
    exact ⟨_, ht.succ hst hsel (hr j (by omega)) hj⟩

end Sys2Proof.Machine
end

section
/-! WAIT_LAT (40_sequencer.md R91, R94). -/
namespace Sys2Proof.Machine

/-- The load of the WAIT_CA exit does not wrap for a latency of at least 1 (R91). -/
theorem toNat_latencyLoad {l : BitVec 5} (hl : l ≠ 0) : (2 * l.setWidth 8 - 2).toNat = 2 * l.toNat - 2 := by
  bv_omega

/-- What the last cycle of WAIT_LAT writes, the clear of `sr` in place of the shift, and what it leaves (R94). -/
theorem nextOf_of_waitLat_last {s : State} (hs : s.state = .waitLat) (hc : s.counter = 1) (inp : Inputs) :
    (nextOf inp s).state = .shiftDat ∧ (nextOf inp s).counter = 4 ∧ (nextOf inp s).sr = 0 ∧
      (nextOf inp s).dqOe = s.dqOe ∧ (nextOf inp s).cs = s.cs ∧ (nextOf inp s).lastAdr = s.lastAdr := by
  have hl : lastCount s = true := (lastCount_iff s).2 hc
  simp [nextOf, nextState, nextCounter, nextSr, nextDqOe, nextCs, nextLastAdr, accepted, hs, hl, Config.dataLoad]

/-- The counter with which a cycle that moves from WAIT_CA to WAIT_LAT ends (R91). -/
theorem nextCounter_of_waitCa_last {s : State} (hs : s.state = .waitCa) (hc : s.counter = 1) (inp : Inputs) :
    nextCounter inp s = 2 * s.latency.setWidth 8 - 2 := by
  simp [nextCounter, hs, (lastCount_iff s).2 hc]

/-- A fault-free last cycle of WAIT_CA has a latency of at least 1 (R93). -/
theorem latency_ne_zero_of_faultFree {inp : Inputs} {s : State} (hr : inp.rst = false) (hs : s.state = .waitCa)
    (hc : s.counter = 1) (hf : faultFree inp s = true) : s.latency ≠ 0 := by
  intro hl
  simp [faultFree, raisesLatencyZero, hr, hs, hc, hl] at hf

end Sys2Proof.Machine

namespace Sys2Proof.Proofs
open Sys2Proof.Machine

/-- Settles O17: while the counter is above 1 the phase goes on, its last cycle clears `sr` and loads 4; the only edge
into WAIT_LAT is WAIT_CA's, taken with a latency of at least 1. -/
theorem waitLatPhase : Obligations.WaitLatPhase := by
  unfold Obligations.WaitLatPhase
  constructor
  · rintro s n hinv hs rfl hn hr
    have hsel : anySelected s = true := (hinv.selected (by simp [hs])).anySelected
    have hoe : s.dqOe = false := hinv.dqOe_eq_false (by simp [hs])
    have hwithin {j : Nat} (hj : j < s.counter.toNat) : ∃ t, Within s j t :=
      exists_within (hs ▸ .waitLat) hsel hr hj
    refine ⟨fun j hj => ?_, fun j hj => ?_, ?_⟩
    · obtain ⟨t, ht⟩ := hwithin hj
      exact ⟨t, ht.run, ht.state.trans hs, ht.counter, ht.dqOe.trans hoe⟩
    · obtain ⟨t, ht⟩ := hwithin (Nat.lt_of_succ_lt hj)
      obtain ⟨u, hu⟩ := hwithin hj
      exact ⟨t, u, ht.run, hu.run, by rw [hu.sr, ht.sr, srAfter]⟩
    · obtain ⟨m, hm⟩ : ∃ m, s.counter.toNat = m + 1 := ⟨s.counter.toNat - 1, by omega⟩
      obtain ⟨t, ht⟩ := hwithin (j := m) (by omega)
      have hts : t.state = .waitLat := ht.state.trans hs
      have htc : t.counter = 1 := counter_eq_one_of_toNat (by have := ht.counter; omega)
      have hrun := ht.runCycles_succ (hr m (by omega)) (faultFree_of_ne (by simp [hts]) (by simp [hts]) _)
      obtain ⟨hstate, hcounter, hsr, hdqOe, hcs, hla⟩ := nextOf_of_waitLat_last hts htc (s.inputsAt m)
      rw [hm]
      exact ⟨_, hrun, hstate, hcounter, hsr, hdqOe.trans (ht.dqOe.trans hoe), hcs.trans ht.cs, hla.trans ht.lastAdr⟩
  · intro i s t h ht hne
    obtain ⟨hr, hf, rfl, hedge⟩ := exec_next_of_ne_idle h (by simp [ht])
    rw [ht] at hedge
    generalize hst : s.state = st at hedge hne
    cases hedge with
    | stay => exact absurd rfl hne
    | packetSent hc =>
      have hlatency : s.latency ≠ 0 :=
        latency_ne_zero_of_faultFree (by simpa using hr) hst (by simpa using hc) hf
      refine ⟨rfl, (congrArg BitVec.toNat (nextCounter_of_waitCa_last (by simpa using hst) hc _)).trans ?_⟩
      rw [carriedIn_latency]
      exact toNat_latencyLoad hlatency

end Sys2Proof.Proofs
end

section
/-! SHIFT_DAT (40_sequencer.md R96). -/
namespace Sys2Proof.Machine

/-- Bit by bit, one shift moves a register up by a byte (R125). -/
theorem getLsbD_shift (x : Packet) (b : Byte) {i : Nat} (hi : i < 48) :
    (x.extractLsb' 0 40 ++ b).getLsbD i = if i < 8 then b.getLsbD i else x.getLsbD (i - 8) := by
  have h : i - 8 < 40 := by omega
  refine (BitVec.getLsbD_append ..).trans ?_
  simp [h]

/-- The bits of a sampled word: its last byte is the lowest (R49). -/
theorem getLsbD_wordSampled (k : Nat) (s : State) (i : Nat) :
    (wordSampled k s).getLsbD i =
      if i < 8 then (s.inputsAt (k + 3)).dqI.getLsbD i
      else if i - 8 < 8 then (s.inputsAt (k + 2)).dqI.getLsbD (i - 8)
      else if i - 8 - 8 < 8 then (s.inputsAt (k + 1)).dqI.getLsbD (i - 8 - 8)
      else (s.inputsAt k).dqI.getLsbD (i - 8 - 8 - 8) := by
  unfold wordSampled
  refine (BitVec.getLsbD_append ..).trans ?_
  rw [BitVec.getLsbD_append, BitVec.getLsbD_append]

/-- Four shifts put the four bytes sampled in the low word, the first one on top (R96, R49). -/
theorem srAfter_four (s : State) : srAfter s 4 = s.sr.extractLsb' 0 16 ++ wordSampled 0 s := by
  apply BitVec.eq_of_getLsbD_eq
  intro i hi
  refine Eq.trans ?_ (BitVec.getLsbD_append ..).symm
  rw [getLsbD_wordSampled]
  simp (disch := omega) only [srAfter, getLsbD_shift, BitVec.getLsbD_extractLsb', Nat.zero_add]
  by_cases hw : i < 32
  · have hb : i - 8 - 8 - 8 < 8 := by omega
    simp only [if_pos hw, if_pos hb]
  · have hx : i - 32 < 16 := by omega
    simp (disch := omega) only [if_neg, hx, decide_true, Bool.true_and, Nat.sub_sub]

/-- What every cycle of SHIFT_DAT shifts, counts and leaves, the last one included (R96, R125). -/
theorem nextOf_of_shiftDat {s : State} (hs : s.state = .shiftDat) (ha : active s = true) (inp : Inputs) :
    (nextOf inp s).sr = s.sr.extractLsb' 0 40 ++ inp.dqI ∧ (nextOf inp s).counter = s.counter - 1 ∧
      (nextOf inp s).cs = s.cs ∧ (nextOf inp s).lastAdr = s.lastAdr ∧ (nextOf inp s).dqOe = s.dqOe := by
  simp [nextOf, nextSr, nextCounter, nextCs, nextLastAdr, nextDqOe, accepted, shifted, counted, hs, ha]

/-- An accepted continuation loads the counter with 4 (R100). -/
theorem nextCounter_of_continuation {inp : Inputs} {s : State} (hs : s.state = .waitNext) (hp : pending inp = true)
    (hcont : cont inp.adr s.lastAdr = true) : nextCounter inp s = 4 := by
  simp only [nextCounter, hs, hp, hcont, Bool.and_self, if_true, Config.dataLoad]

/-- The last cycle of SHIFT_DAT moves to ACK_XFER (R96). -/
theorem nextState_of_shiftDat_last {s : State} (hs : s.state = .shiftDat) (hc : s.counter = 1) (inp : Inputs) :
    nextState inp s = .ackXfer := by
  simp [nextState, hs, (lastCount_iff s).2 hc]

end Sys2Proof.Machine

namespace Sys2Proof.Proofs
open Sys2Proof.Machine

/-- Settles O18: the phase goes on while the counter is above 1, every one of its cycles shifts, four toggles bring the
clock back low, and the edges into SHIFT_DAT load 4. -/
theorem shiftDatPhase : Obligations.ShiftDatPhase := by
  unfold Obligations.ShiftDatPhase
  constructor
  · intro s hinv hs hc hr
    have hcn : s.counter.toNat = 4 := congrArg BitVec.toNat hc
    have hsel : anySelected s = true := (hinv.selected (by simp [hs])).anySelected
    have hck : s.ck = false := by rw [hinv.ck_eq, hc]; rfl
    have hcycle {j : Nat} (hj : j < 4) : ∃ t, Within s j t ∧ t.state = .shiftDat ∧ active t = true ∧
        runCycles (j + 1) s = .next (nextOf (s.inputsAt j) t) := by
      obtain ⟨t, ht⟩ := exists_within (hs ▸ .shiftDat) hsel (by rwa [hcn]) (by rwa [hcn])
      have hts : t.state = .shiftDat := ht.state.trans hs
      exact ⟨t, ht, hts, active_of_pos (by have := ht.counter; omega),
        ht.runCycles_succ (hr j hj) (faultFree_of_ne (by simp [hts]) (by simp [hts]) _)⟩
    constructor
    · intro j hj
      obtain ⟨t, ht, hts, hta, hrun⟩ := hcycle hj
      obtain ⟨hsr, -⟩ := nextOf_of_shiftDat hts hta (s.inputsAt j)
      exact ⟨t, _, ht.run, hrun, hts, by rw [ht.counter, hcn], hsr⟩
    · obtain ⟨t, ht, hts, hta, hrun⟩ := hcycle (j := 3) (by decide)
      obtain ⟨hsr, hcounter, hcs, hla, hoe⟩ := nextOf_of_shiftDat hts hta (s.inputsAt 3)
      have htc : t.counter = 1 := counter_eq_one_of_toNat (by have := ht.counter; omega)
      have htck : nextCk (s.inputsAt 3) t = false := by
        rw [nextCk_of_active (hr 3 (by decide)) (ht.anySelected_eq.trans hsel) hta, ht.ck, hck]; rfl
      refine ⟨_, hrun, nextState_of_shiftDat_last hts htc _, by rw [hcounter, htc]; rfl, htck, ?_, hcs.trans ht.cs,
        hla.trans ht.lastAdr, (hoe.trans ht.dqOe).trans (hinv.dqOe_eq_false (by simp [hs]))⟩
      rw [hsr, ht.sr]
      exact srAfter_four s
  · intro i s t h ht hne
    obtain ⟨-, -, rfl, hedge⟩ := exec_next_of_ne_idle h (by simp [ht])
    rw [ht] at hedge
    generalize hst : s.state = st at hedge hne
    cases hedge with
    | stay => exact absurd rfl hne
    | latencyOver hc =>
      obtain ⟨-, hcounter, -⟩ := nextOf_of_waitLat_last (by simpa using hst) hc (drivenBy i s.inputs)
      exact ⟨.inl rfl, hcounter⟩
    | continuation hp hcont =>
      exact ⟨.inr rfl, nextCounter_of_continuation (by simpa using hst) hp hcont⟩

end Sys2Proof.Proofs
end

section
/-! The writers of the latency (44_latency_store.md R151). -/
namespace Sys2Proof.Machine

/-- A packet as carrier is no writer of the latency (R151). -/
@[simp] theorem latencyAfter_carriedIn (inp : Inputs) (i : Instr) (s : State) :
    latencyAfter inp (carriedIn i s) = latencyAfter inp s :=
  latencyAfter_congr inp (carriedIn_latency i s)

/-- A reset cycle of any operation answers INIT_LATENCY (R173). -/
theorem latency_of_exec_of_reset {i : Instr} {s t : State} (hr : s.inputs.rst = true) (h : exec i s = .next t) :
    t.latency = s.params.initLatency := by
  obtain ⟨-, rfl⟩ | ⟨hr', -⟩ := exec_next h
  · simp
  · simp [hr] at hr'

/-- Without reset only a control write changes the latency, whatever the sequencer does (R148, R151). -/
theorem latency_of_exec_of_not_reset {i : Instr} {s t : State} (hr : s.inputs.rst = false)
    (h : exec i s = .next t) : t.latency = latencyAfter (drivenBy i s.inputs) s := by
  obtain rfl := exec_eq_nextOf_of_next hr h
  exact latencyAfter_carriedIn _ i s

end Sys2Proof.Machine

namespace Sys2Proof.Proofs
open Sys2Proof.Machine

/-- Settles O23: a reset cycle loads INIT_LATENCY, and any other cycle that answers leaves the write's bits or the old
latency. -/
theorem latencyPersists : Obligations.LatencyPersists := by
  unfold Obligations.LatencyPersists
  intro i s t h
  cases hr : s.inputs.rst with
  | true => exact latency_of_exec_of_reset hr h
  | false => exact latency_of_exec_of_not_reset hr h

end Sys2Proof.Proofs
end

section
/-! The derived clock of a cycle that carries any operation (41_clock_phase.md R114, R115), and the clock stopped while
no transaction is active (70_reset_and_hazards.md R190). -/
namespace Sys2Proof.Machine

/-- Phase N reads neither the ports an operation drives nor the shift register a packet stands in (R114). -/
theorem nextCk_drivenBy_carriedIn (i : Instr) (inp : Inputs) (s : State) :
    nextCk (drivenBy i inp) (carriedIn i s) = nextCk inp s := by
  obtain ⟨w, hw⟩ := carriedIn_eq i s
  unfold nextCk
  rw [drivenBy_rst, hw]
  rfl

/-- The derived clock after a cycle is phase N's, whatever the operation (R114). -/
theorem ck_of_exec {i : Instr} {s t : State} (h : exec i s = .next t) : t.ck = nextCk s.inputs s := by
  rw [exec_eq_runCycle] at h
  obtain ⟨-, -, -, hck, -⟩ := runCycle_keeps h
  exact hck.trans (nextCk_drivenBy_carriedIn i s.inputs s)

/-- With no chip-select active phase N stops the clock low (R114). -/
theorem nextCk_of_not_selected (inp : Inputs) {s : State} (h : anySelected s = false) : nextCk inp s = false := by
  simp [nextCk, h]

/-- In reset phase N stops the clock low (R120). -/
theorem nextCk_of_reset {inp : Inputs} (s : State) (hr : inp.rst = true) : nextCk inp s = false := by
  simp [nextCk, hr]

/-- With the counter at 0 phase N leaves a low clock low (R114, R115). -/
theorem nextCk_of_low (inp : Inputs) {s : State} (hc : s.counter = 0) (hck : s.ck = false) : nextCk inp s = false := by
  simp [nextCk, active, hc, hck]

/-- In the states without a transfer under way the counter is at 0 (R35). -/
theorem State.Inv.counter_of_inactive {s : State} (h : s.Inv)
    (hs : s.state = .idle ∨ s.state = .ackXfer ∨ s.state = .waitNext) : s.counter = 0 := by
  obtain ⟨-, hIdle, -, -, -, -, hNext, -, -⟩ := id h
  obtain hs | hs | hs := hs
  · obtain ⟨hc, -⟩ := hIdle hs; exact hc
  · exact h.counter_of_ackXfer hs
  · obtain ⟨hc, -⟩ := hNext hs; exact hc

end Sys2Proof.Machine

namespace Sys2Proof.Proofs
open Sys2Proof.Machine

/-- Settles O12: without a chip-select phase N stops the clock; in the three states the counter is 0, so its parity, the
clock's level, is low, and phase N leaves it there. -/
theorem clockStoppedWhileNoTransaction : Obligations.ClockStoppedWhileNoTransaction := by
  unfold Obligations.ClockStoppedWhileNoTransaction
  intro i s t h
  rw [ck_of_exec h]
  refine ⟨fun hcs => nextCk_of_not_selected _ (by simp [anySelected, hcs]), fun hinv hs => ?_⟩
  have hcounter : s.counter = 0 := hinv.counter_of_inactive hs
  have hck : s.ck = false := by simp [hinv.ck_eq, hcounter]
  exact ⟨hck, nextCk_of_low _ hcounter hck⟩

end Sys2Proof.Proofs
end

section
/-! The reset cycle and the outputs of the cycle after it (70_reset_and_hazards.md R173, R177). -/
namespace Sys2Proof.Machine

/-- A reset cycle answers the reset registers, whatever the operation (R104, R172). -/
theorem exec_of_reset (i : Instr) {s : State} (hr : s.inputs.rst = true) :
    exec i s = .next ((phaseN (drivenBy i s.inputs) (carriedIn i s)).resetRegisters.endCycle
      (outputsOf (drivenBy i s.inputs) (carriedIn i s))) := by
  rw [exec_eq_runCycle]
  exact runCycle_reset _ (by simpa using hr)

/-- A step that answers records the outputs of the state it starts in (R15, R34). -/
theorem out_of_step {s t : State} (h : step s = .next t) : t.out = some (outputsOf s.inputs s) := by
  rw [step_eq_runCycle] at h
  obtain ⟨-, -, -, -, hout⟩ := runCycle_keeps h
  exact hout

/-- With no device selected every chip-select pin is high (R80). -/
@[simp] theorem ChipSelects.complement_none (n : Nat) :
    (ChipSelects.none n).complement = ⟨n, BitVec.allOnes n⟩ :=
  congrArg (ChipSelects.mk n) BitVec.not_zero

end Sys2Proof.Machine

namespace Sys2Proof.Proofs
open Sys2Proof.Machine

/-- Settles O30: the reset cycle answers the reset registers with the clock phase N stopped, and the outputs recorded by
the next step are those of that state, which has no device selected. -/
theorem resetCycle : Obligations.ResetCycle := by
  unfold Obligations.ResetCycle
  intro i s hr
  have hck := ck_of_exec (exec_of_reset i hr)
  rw [nextCk_of_reset s hr] at hck
  refine ⟨_, exec_of_reset i hr, rfl, rfl, rfl, by simp, rfl, hck, by simp, by simp, ?_⟩
  intro u o hr' hstep hout
  rw [out_of_step hstep, Option.some.injEq] at hout
  subst hout
  exact ⟨rfl, by simp [outputsOf, Machine.ctrlRdata], by simp [outputsOf], hck,
    nextCk_of_not_selected _ (anySelected_none rfl), congrArg not hr', rfl, rfl⟩

end Sys2Proof.Proofs
end

section
/-! The fields of a packet and of the words that carry an address (30_encoding.md R64 to R70). -/
namespace Sys2Proof.Machine

/-- The constant field of a packet, bits 47:45 (R65). -/
@[simp] theorem packetOf_constant (upper : BitVec 29) (lower : BitVec 2) :
    (packetOf upper lower).extractLsb' 45 3 = 0b101#3 :=
  calc (packetOf upper lower).extractLsb' 45 3
      = (1#1 ++ 0#1 ++ 1#1 ++ upper ++ 0#13 ++ lower).extractLsb' 44 3 :=
        BitVec.extractLsb'_append_eq_of_le (by decide)
    _ = (1#1 ++ 0#1 ++ 1#1 ++ upper ++ 0#13).extractLsb' 42 3 := BitVec.extractLsb'_append_eq_of_le (by decide)
    _ = (1#1 ++ 0#1 ++ 1#1 ++ upper).extractLsb' 29 3 := BitVec.extractLsb'_append_eq_of_le (by decide)
    _ = 1#1 ++ 0#1 ++ 1#1 := BitVec.extractLsb'_append_eq_left
    _ = 0b101#3 := by decide

/-- A part of the packet's upper address field, which begins at bit 16 (R66). -/
theorem extractLsb'_packetOf_of_upper (upper : BitVec 29) (lower : BitVec 2) {start len : Nat}
    (h : start + len ≤ 29) : (packetOf upper lower).extractLsb' (16 + start) len = upper.extractLsb' start len :=
  calc (packetOf upper lower).extractLsb' (16 + start) len
      = (1#1 ++ 0#1 ++ 1#1 ++ upper ++ 0#13 ++ lower).extractLsb' (16 + start - 1) len :=
        BitVec.extractLsb'_append_eq_of_le (by omega)
    _ = (1#1 ++ 0#1 ++ 1#1 ++ upper ++ 0#13).extractLsb' (16 + start - 1 - 2) len :=
        BitVec.extractLsb'_append_eq_of_le (by omega)
    _ = (1#1 ++ 0#1 ++ 1#1 ++ upper).extractLsb' (16 + start - 1 - 2 - 13) len :=
        BitVec.extractLsb'_append_eq_of_le (by omega)
    _ = (1#1 ++ 0#1 ++ 1#1 ++ upper).extractLsb' start len := by rw [show 16 + start - 1 - 2 - 13 = start by omega]
    _ = upper.extractLsb' start len := BitVec.extractLsb'_append_eq_of_add_le h

/-- The packet's upper address field, bits 44:16 (R66). -/
@[simp] theorem packetOf_upper (upper : BitVec 29) (lower : BitVec 2) :
    (packetOf upper lower).extractLsb' 16 29 = upper :=
  (extractLsb'_packetOf_of_upper upper lower (start := 0) (by decide)).trans BitVec.extractLsb'_eq_self

/-- The packet's lower address field, bits 2:1 (R68). -/
@[simp] theorem packetOf_lower (upper : BitVec 29) (lower : BitVec 2) :
    (packetOf upper lower).extractLsb' 1 2 = lower :=
  calc (packetOf upper lower).extractLsb' 1 2
      = (1#1 ++ 0#1 ++ 1#1 ++ upper ++ 0#13 ++ lower).extractLsb' 0 2 :=
        BitVec.extractLsb'_append_eq_of_le (by decide)
    _ = lower := BitVec.extractLsb'_append_eq_right

/-- The encoder and the sequencer build the same packet (R64, R70). -/
theorem encode_caReadLinear (upper : BitVec 29) (lower : BitVec 2) :
    encode (.caReadLinear upper lower) = .ca (packetOf upper lower) := by
  have hconst : 1#1 ++ 0#1 ++ 1#1 = 0b101#3 := by decide
  simp only [encode, packetOf, hconst]

/-- Every upper address is a zero-extended 28-bit field, whether the device bits are kept or stripped (R66). -/
theorem upperAddress_extract_top (p : Params) (adr : WordAdr) : (upperAddress p adr).extractLsb' 28 1 = 0 := by
  have hlt : (upperAddress p adr).toNat < 2 ^ 28 := by
    unfold upperAddress
    split
    next =>
      have hmod : adr.toNat % 2 ^ p.devWordBits ≤ adr.toNat := Nat.mod_le _ _
      rw [BitVec.toNat_ofNat]
      omega
    next => simp only [BitVec.toNat_setWidth]; omega
  apply BitVec.eq_of_toNat_eq
  rw [BitVec.extractLsb'_toNat, Nat.shiftRight_eq_div_pow, Nat.div_eq_of_lt hlt]
  rfl

/-- With the device bits kept, the upper address is `adr[29:2]` (R66). -/
theorem upperAddress_extract_of_kept {p : Params} (adr : WordAdr) (h : p.caStripDeviceBits = false) :
    (upperAddress p adr).extractLsb' 0 28 = adr.extractLsb' 2 28 := by
  unfold upperAddress
  rw [h, if_neg (by decide), BitVec.extractLsb'_setWidth_of_le (by decide), BitVec.extractLsb'_eq_self]

/-- With the device bits stripped, the upper address is the within-device word address divided by 4 (R66). -/
theorem upperAddress_toNat_of_stripped {p : Params} (adr : WordAdr) (h : p.caStripDeviceBits = true) :
    (upperAddress p adr).toNat = adr.toNat % 2 ^ p.devWordBits / 4 := by
  have hmod : adr.toNat % 2 ^ p.devWordBits ≤ adr.toNat := Nat.mod_le _ _
  unfold upperAddress
  rw [if_pos h, BitVec.toNat_ofNat]
  omega

/-- A word address is its two parts in the packet (R66, R68). -/
theorem wordAdr_eq_append (adr : WordAdr) : adr = adr.extractLsb' 2 28 ++ adr.extractLsb' 0 2 :=
  (BitVec.extractLsb'_eq_self (x := adr)).symm.trans
    (BitVec.extractLsb'_append_extractLsb'_eq_extractLsb' (start₂ := 2) (start₁ := 0) (len₁ := 2) (len₂ := 28) rfl).symm

/-- A word of device 0 lies within the device's word-address bits (R48). -/
theorem toNat_lt_of_dev_eq_zero {p : Params} {adr : WordAdr} (h : dev p adr = 0) : adr.toNat < 2 ^ p.devWordBits := by
  unfold dev at h
  rw [Nat.shiftRight_eq_div_pow] at h
  exact (Nat.div_eq_zero_iff_lt (Nat.two_pow_pos _)).1 h

end Sys2Proof.Machine

namespace Sys2Proof.Proofs
open Sys2Proof.Machine

/-- Settles O4: the packet of an address is the packet of its two fields, each of which stands where R64 puts it. -/
theorem packetFields : Obligations.PacketFields := by
  unfold Obligations.PacketFields
  intro p adr
  rw [caPacket_eq_packetOf]
  have htop := upperAddress_extract_top p adr
  refine ⟨packetOf_constant _ _, ?_, packetOf_reserved _ _, packetOf_lower _ _, packetOf_addressLsb _ _,
    fun hkept => ?_, fun hstripped => ?_,
    .caReadLinear (upperAddress p adr) (lowerAddress adr), beq_iff_eq.2 htop, encode_caReadLinear _ _⟩
  · exact (extractLsb'_packetOf_of_upper _ _ (start := 28) (by decide)).trans htop
  · exact (extractLsb'_packetOf_of_upper _ _ (start := 0) (by decide)).trans (upperAddress_extract_of_kept adr hkept)
  · rw [packetOf_upper, upperAddress_toNat_of_stripped adr hstripped]

/-- Settles O5: the packet gives back both parts of the address. -/
theorem packetCarriesTheWholeAddress : Obligations.PacketCarriesTheWholeAddress := by
  unfold Obligations.PacketCarriesTheWholeAddress
  intro p q a b hp hq h
  obtain ⟨-, -, -, hlowA, -, hupA, -⟩ := packetFields p a
  obtain ⟨-, -, -, hlowB, -, hupB, -⟩ := packetFields q b
  rw [wordAdr_eq_append a, wordAdr_eq_append b, ← hlowA, ← hupA hp, ← hlowB, ← hupB hq, h]

/-- Settles O6: a word of device 0 has no device bits, so stripping them changes no bit of its upper address. -/
theorem strippingAgreesOnDeviceZero : Obligations.StrippingAgreesOnDeviceZero := by
  unfold Obligations.StrippingAgreesOnDeviceZero
  intro p adr _ hdev
  have hmod : adr.toNat % 2 ^ p.devWordBits = adr.toNat := Nat.mod_eq_of_lt (toNat_lt_of_dev_eq_zero hdev)
  have hupper : upperAddress { p with caStripDeviceBits := true } adr =
      upperAddress { p with caStripDeviceBits := false } adr := by
    apply BitVec.eq_of_toNat_eq
    rw [upperAddress_toNat_of_stripped adr rfl, hmod]
    simp only [upperAddress, Bool.false_eq_true, if_false, BitVec.toNat_setWidth, BitVec.extractLsb'_toNat,
      Nat.shiftRight_eq_div_pow]
    omega
  simp only [caPacket, hupper]

end Sys2Proof.Proofs
end

section
/-! Decoding and encoding (30_encoding.md R74 to R78). -/
namespace Sys2Proof.Machine

/-- One bit of a word, as a field. -/
theorem ofBool_getLsbD {n : Nat} (w : BitVec n) (i : Nat) : BitVec.ofBool (w.getLsbD i) = w.extractLsb' i 1 := by
  apply BitVec.eq_of_getLsbD_eq
  intro j hj
  obtain rfl : j = 0 := by omega
  simp

/-- A request word is its three fields (R74). -/
theorem breq_eq_append (w : BitVec 32) :
    BitVec.ofBool (w.getLsbD 31) ++ BitVec.ofBool (w.getLsbD 30) ++ w.extractLsb' 0 30 = w := by
  rw [ofBool_getLsbD, ofBool_getLsbD, BitVec.extractLsb'_append_extractLsb'_eq_extractLsb' (by decide),
    BitVec.extractLsb'_append_extractLsb'_eq_extractLsb' (by decide)]
  exact BitVec.extractLsb'_eq_self

/-- A control word is its two fields (R75). -/
theorem creq_eq_append (w : BitVec 33) : BitVec.ofBool (w.getLsbD 32) ++ w.extractLsb' 0 32 = w := by
  rw [ofBool_getLsbD, BitVec.extractLsb'_append_extractLsb'_eq_extractLsb' (by decide)]
  exact BitVec.extractLsb'_eq_self

/-- A packet is its five fields (R64). -/
theorem packet_eq_append (w : Packet) :
    w.extractLsb' 45 3 ++ w.extractLsb' 16 29 ++ w.extractLsb' 3 13 ++ w.extractLsb' 1 2 ++ w.extractLsb' 0 1 = w := by
  rw [BitVec.extractLsb'_append_extractLsb'_eq_extractLsb' (by decide),
    BitVec.extractLsb'_append_extractLsb'_eq_extractLsb' (by decide),
    BitVec.extractLsb'_append_extractLsb'_eq_extractLsb' (by decide),
    BitVec.extractLsb'_append_extractLsb'_eq_extractLsb' (by decide)]
  exact BitVec.extractLsb'_eq_self

/-- A packet decodes exactly when its three constant fields hold what R65, R67 and R69 give, to its address fields. -/
theorem decodeCa_eq_ok {w : Packet} {i : Instr} :
    decodeCa w = .ok i ↔
      (w.extractLsb' 45 3 = 0b101#3 ∧ w.extractLsb' 3 13 = 0#13 ∧ w.extractLsb' 0 1 = 0#1) ∧
        i = .caReadLinear (w.extractLsb' 16 29) (w.extractLsb' 1 2) := by
  unfold decodeCa
  split
  next h => simp [h]
  next hconst =>
    split
    next h => simp [h]
    next hreserved =>
      split
      next h => simp [h]
      next hlsb =>
        have hfields := And.intro (Decidable.not_not.1 hconst)
          (And.intro (Decidable.not_not.1 hreserved) (Decidable.not_not.1 hlsb))
        exact ⟨fun h => ⟨hfields, (Except.ok.inj h).symm⟩, fun ⟨_, hi⟩ => congrArg Except.ok hi.symm⟩

/-- The decoder reads the encoding of every operation back (R76). -/
theorem decode_encode (i : Instr) : decode (encode i) = .ok i := by
  cases i with
  | busRead adr => exact congrArg Except.ok (decodeBreq_fields true true adr)
  | busNoreqCyc stb adr => exact congrArg Except.ok (decodeBreq_fields false stb adr)
  | busNoreqStb adr => exact congrArg Except.ok (decodeBreq_fields true false adr)
  | ctrlWrite wdata => exact congrArg Except.ok (decodeCreq_fields true wdata)
  | ctrlRead wdata => exact congrArg Except.ok (decodeCreq_fields false wdata)
  | caReadLinear upper lower =>
    rw [encode_caReadLinear]
    exact decodeCa_eq_ok.2 ⟨⟨packetOf_constant _ _, packetOf_reserved _ _, packetOf_addressLsb _ _⟩, by simp⟩

/-- The encoding of what a request word decodes to is the word (R74). -/
theorem encode_decodeBreq (w : BitVec 32) : encode (decodeBreq w) = .breq w := by
  conv => rhs; rw [← breq_eq_append w]
  unfold decodeBreq
  cases w.getLsbD 31 with
  | false => rfl
  | true => cases w.getLsbD 30 <;> rfl

/-- The encoding of what a control word decodes to is the word (R75). -/
theorem encode_decodeCreq (w : BitVec 33) : encode (decodeCreq w) = .creq w := by
  conv => rhs; rw [← creq_eq_append w]
  unfold decodeCreq
  cases w.getLsbD 32 <;> rfl

/-- The encoding of what a packet decodes to is the packet (R64). -/
theorem encode_of_decodeCa {w : Packet} {i : Instr} (h : decodeCa w = .ok i) : encode i = .ca w := by
  obtain ⟨⟨hconst, hreserved, hlsb⟩, rfl⟩ := decodeCa_eq_ok.1 h
  conv => rhs; rw [← packet_eq_append w, hconst, hreserved, hlsb]
  rfl

/-- A word's width in whole bytes and its value name the word (R78). -/
theorem portWordOfBits_toNat (p : PortWord) : portWordOfBits p.nbits p.toNat = .ok p := by
  unfold portWordOfBits
  cases p with
  | breq w => simp [PortWord.nbits, PortWord.toNat, w.isLt]
  | creq w => simp [PortWord.nbits, PortWord.toNat, w.isLt]
  | ca w => simp [PortWord.nbits, PortWord.toNat, w.isLt]

/-- What the table's numbering gives is what the decoder gives of the word it names. -/
theorem decodeTableWord_eq_some {nbits w : Nat} {i : Instr} :
    decodeTableWord nbits w = some i ↔ ∃ p, portWordOfBits nbits w = .ok p ∧ decode p = .ok i := by
  unfold decodeTableWord decodeBits
  cases portWordOfBits nbits w with
  | error e => simp
  | ok p => cases h : decode p <;> simp [h]

end Sys2Proof.Machine

namespace Sys2Proof.Proofs
open Sys2Proof.Machine

/-- Settles O1: every word is the concatenation of the fields its decoder reads. -/
theorem decodeInvertsEncode : Obligations.DecodeInvertsEncode := by
  unfold Obligations.DecodeInvertsEncode
  refine ⟨fun i => ⟨decode_encode i, decodeTableWord_eq_some.2 ⟨_, portWordOfBits_toNat _, decode_encode i⟩⟩,
    fun w i h => ?_⟩
  cases w with
  | breq w => cases h; exact encode_decodeBreq w
  | creq w => cases h; exact encode_decodeCreq w
  | ca w => exact encode_of_decodeCa h

/-- Settles O2: the ten words, read by the decoder. -/
theorem specWordsDecode : Obligations.SpecWordsDecode := by
  unfold Obligations.SpecWordsDecode
  and_intros <;> rfl

end Sys2Proof.Proofs
end

section
/-! Continuations (40_sequencer.md R101; 60_exceptions.md R168). -/
namespace Sys2Proof.Machine

theorem toNat_pageOf (a : WordAdr) : (pageOf a).toNat = a.toNat / 2 ^ Config.pageBits := by
  simp only [pageOf, BitVec.extractLsb'_toNat, Nat.shiftRight_eq_div_pow, Config.pageBits]
  omega

theorem toNat_pageField (a : WordAdr) : (pageField a).toNat = a.toNat % 2 ^ Config.pageBits := by
  simp [pageField, Config.pageBits]

/-- Continuation eligibility in numbers: the same page, and the next word's field without wrapping (R101). -/
theorem cont_iff (a la : WordAdr) :
    cont a la = true ↔ a.toNat / 64 = la.toNat / 64 ∧ a.toNat % 64 = la.toNat % 64 + 1 := by
  have hpage := toNat_pageOf
  have hfield := toNat_pageField
  simp only [Config.pageBits] at hpage hfield
  simp only [cont, Bool.and_eq_true, beq_iff_eq, BitVec.toNat_eq, BitVec.toNat_add, BitVec.toNat_setWidth, hpage,
    hfield]
  have hone : (1 : BitVec 7).toNat = 1 := rfl
  omega

/-- The page field does not reach the device bits, so a continuation has the latched address's device (R9, R168). -/
theorem dev_eq_of_cont {p : Params} {a la : WordAdr} (hp : p.Valid) (h : cont a la = true) : dev p a = dev p la := by
  obtain ⟨-, hbits, -, -⟩ := hp
  obtain ⟨hpage, -⟩ := (cont_iff a la).1 h
  have hsplit (x : WordAdr) : dev p x = x.toNat / 2 ^ Config.pageBits / 2 ^ (p.devWordBits - Config.pageBits) := by
    rw [Nat.div_div_eq_div_mul, ← Nat.pow_add, Nat.add_sub_cancel' hbits, ← Nat.shiftRight_eq_div_pow]
    rfl
  rw [hsplit, hsplit]
  exact congrArg (· / 2 ^ (p.devWordBits - Config.pageBits)) hpage

end Sys2Proof.Machine

namespace Sys2Proof.Proofs
open Sys2Proof.Machine

/-- Settles O42: equal pages and a page field one higher, in numbers. -/
theorem continuationIsTheNextWordOfThePage : Obligations.ContinuationIsTheNextWordOfThePage := by
  unfold Obligations.ContinuationIsTheNextWordOfThePage
  intro a la
  have hfield : (la.extractLsb' 0 6).toNat = la.toNat % 64 := toNat_pageField la
  rw [cont_iff, ne_eq, BitVec.toNat_eq (x := a), BitVec.toNat_eq (x := la.extractLsb' 0 6), hfield, BitVec.toNat_add]
  have hone : (1 : WordAdr).toNat = 1 := rfl
  have hlast : (63#6).toNat = 63 := rfl
  omega

/-- Settles O43: in WAIT_NEXT the latched address's device is mapped, so no continuation is unmapped. -/
theorem continuationKeepsTheDevice : Obligations.ContinuationKeepsTheDevice := by
  unfold Obligations.ContinuationKeepsTheDevice
  refine ⟨fun p a la => dev_eq_of_cont, fun s a hinv hs hunmapped => ?_⟩
  obtain ⟨hmapped, -⟩ := hinv.selected (by simp [hs])
  obtain ⟨hvalid, -⟩ := hinv
  refine Bool.eq_false_iff.2 fun hcont => ?_
  rw [dev_eq_of_cont hvalid hcont] at hunmapped
  omega

end Sys2Proof.Proofs
end

section
/-! The state table's invariant, read column by column (10_state.md R35, R36). -/
namespace Sys2Proof.Machine

/-- The table's column of the counter: its range in each sequencer state (R35). -/
def counterInRange (c : BitVec 8) : SeqState → Prop
  | .idle | .ackXfer | .waitNext => c = 0
  | .waitCa => 1 ≤ c ∧ c ≤ 6
  | .waitLat => c ≤ 60
  | .shiftDat => 1 ≤ c ∧ c ≤ 4

/-- The table's column of the chip-selects: none in IDLE, else the latched address's device (R35). -/
def State.csInTable (s : State) : Prop :=
  if s.state = .idle then s.cs = ChipSelects.none s.params.nCs else s.Selected

/-- The invariant by the columns of the table. -/
theorem State.inv_iff (s : State) :
    s.Inv ↔ s.params.Valid ∧ counterInRange s.counter s.state ∧ s.csInTable ∧ s.dqOe = decide (s.state = .waitCa) ∧
      (s.state = .waitNext → 1 ≤ s.wcount) ∧ s.wcount ≤ 9 ∧ s.ck = s.counter.getLsbD 0 := by
  unfold State.Inv State.csInTable
  cases hs : s.state <;> simp [counterInRange, and_assoc]

/-- In WAIT_CA the data pins are driven (R35). -/
theorem State.Inv.dqOe_of_waitCa {s : State} (h : s.Inv) (hs : s.state = .waitCa) : s.dqOe = true := by
  obtain ⟨-, -, hCa, -⟩ := h
  obtain ⟨-, -, -, hoe⟩ := hCa hs
  exact hoe

/-- The invariant says nothing of the shift register, so an operation's carrier keeps it. -/
theorem State.Inv.carriedIn {s : State} (h : s.Inv) (i : Instr) : (carriedIn i s).Inv := by
  obtain ⟨w, hw⟩ := carriedIn_eq i s
  rw [hw]
  exact h

/-! ### The counter and the derived clock -/

theorem getLsbD_zero {n : Nat} (c : BitVec n) : c.getLsbD 0 = decide (c.toNat % 2 = 1) := Nat.testBit_zero _

/-- The parity of the counter changes with every decrement (R36). -/
theorem parity_sub_one (c : BitVec 8) : (c - 1).getLsbD 0 = !c.getLsbD 0 := by
  have hmod : (c - 1).toNat % 2 = 1 ↔ ¬ c.toNat % 2 = 1 := by bv_omega
  rw [getLsbD_zero, getLsbD_zero, decide_eq_decide.2 hmod, decide_not]

/-- The load of the WAIT_CA exit is even (R91). -/
theorem parity_latencyLoad (l : BitVec 5) : (2 * l.setWidth 8 - 2).getLsbD 0 = false := by
  rw [getLsbD_zero, decide_eq_false_iff_not]
  bv_omega

/-- The counter of an inactive cycle (R125). -/
theorem counter_eq_zero_of_inactive {s : State} (h : active s = false) : s.counter = 0 := by
  simpa [active] using h

/-- Phase N keeps the clock at the counter's parity through the decrement (R114, R36). -/
theorem nextCk_eq_parity_counted {inp : Inputs} {s : State} (hr : inp.rst = false) (hsel : anySelected s = true)
    (hck : s.ck = s.counter.getLsbD 0) : nextCk inp s = (counted s).getLsbD 0 := by
  unfold counted
  cases ha : active s with
  | true => rw [nextCk_of_active hr hsel ha, hck, if_pos rfl, parity_sub_one]
  | false => rw [nextCk_of_counter_zero hr hsel (counter_eq_zero_of_inactive ha), hck, if_neg (by decide)]

/-- A last count is odd, so its clock falls, as the parity of the even number loaded in its place (R36). -/
theorem nextCk_of_lastCount {inp : Inputs} {s : State} (hr : inp.rst = false) (hsel : anySelected s = true)
    (hck : s.ck = s.counter.getLsbD 0) (hl : lastCount s = true) : nextCk inp s = false := by
  have hc : s.counter = 1 := (lastCount_iff s).1 hl
  rw [nextCk_of_active hr hsel (by simp [active, hc]), hck, hc]
  rfl

/-- The clock after a cycle is the parity of the counter after it (R36). -/
theorem nextCk_eq_parity {inp : Inputs} {s : State} (hinv : s.Inv) (hr : inp.rst = false) :
    nextCk inp s = (nextCounter inp s).getLsbD 0 := by
  have hck := hinv.ck_eq
  have hcounted (hs : s.state ≠ .idle) : nextCk inp s = (counted s).getLsbD 0 :=
    nextCk_eq_parity_counted hr (hinv.selected hs).anySelected hck
  have hlast (hs : s.state ≠ .idle) : lastCount s = true → nextCk inp s = false :=
    nextCk_of_lastCount hr (hinv.selected hs).anySelected hck
  unfold nextCounter
  cases hs : s.state <;> dsimp only
  case idle =>
    obtain ⟨-, hIdle, -⟩ := hinv
    obtain ⟨-, hcs, -⟩ := hIdle hs
    rw [nextCk_of_not_selected inp (anySelected_none hcs)]
    split <;> rfl
  case waitCa =>
    split
    next hl => rw [hlast (by simp [hs]) hl, parity_latencyLoad]
    next => exact hcounted (by simp [hs])
  case waitLat =>
    split
    next hl => exact hlast (by simp [hs]) hl
    next => exact hcounted (by simp [hs])
  case shiftDat => exact hcounted (by simp [hs])
  case ackXfer => exact hcounted (by simp [hs])
  case waitNext =>
    split
    next =>
      have hc : s.counter = 0 := hinv.counter_of_inactive (.inr (.inr hs))
      exact nextCk_of_low inp hc (by rw [hck, hc]; rfl)
    next => exact hcounted (by simp [hs])

/-- An active cycle's decrement that is not the last (R22). -/
theorem counted_of_pos {s : State} (h : 1 ≤ s.counter) : counted s = s.counter - 1 :=
  if_pos (active_of_pos (by bv_omega))

/-- With the counter at 0 nothing is counted (R22). -/
theorem counted_of_zero {s : State} (h : s.counter = 0) : counted s = 0 := by
  simp [counted, active, h]

theorem counter_ne_one {s : State} (h : ¬ lastCount s = true) : s.counter ≠ 1 := fun hc => h ((lastCount_iff s).2 hc)

/-- The counter after a cycle is in the range of the state after it (R35). -/
theorem counterInRange_nextCounter {inp : Inputs} {s : State} (hr : inp.rst = false) (hf : faultFree inp s = true)
    (h : counterInRange s.counter s.state) : counterInRange (nextCounter inp s) (nextState inp s) := by
  unfold nextCounter nextState
  cases hs : s.state <;> simp only [hs, counterInRange] at h <;> dsimp only
  case idle =>
    split
    next => exact ⟨by decide, by decide⟩
    next => exact rfl
  case waitCa =>
    obtain ⟨hpos, hle⟩ := h
    split
    next hl =>
      have hlatency : s.latency ≠ 0 := latency_ne_zero_of_faultFree hr hs ((lastCount_iff s).1 hl) hf
      show 2 * s.latency.setWidth 8 - 2 ≤ 60
      bv_omega
    next hl =>
      have hne := counter_ne_one hl
      rw [counted_of_pos hpos]
      exact ⟨by bv_omega, by bv_omega⟩
  case waitLat =>
    split
    next => exact ⟨by decide, by decide⟩
    next =>
      show counted s ≤ 60
      cases ha : active s with
      | true =>
        have hne : s.counter ≠ 0 := by simpa [active] using ha
        rw [counted, if_pos ha]
        bv_omega
      | false => simpa [counted, ha] using h
  case shiftDat =>
    obtain ⟨hpos, hle⟩ := h
    rw [counted_of_pos hpos]
    split
    next hl => rw [(lastCount_iff s).1 hl]; rfl
    next hl =>
      have hne := counter_ne_one hl
      exact ⟨by bv_omega, by bv_omega⟩
  case ackXfer => exact counted_of_zero h
  case waitNext =>
    cases hp : pending inp with
    | false =>
      cases windowExpires s with
      | false => exact counted_of_zero h
      | true => exact counted_of_zero h
    | true =>
      cases cont inp.adr s.lastAdr with
      | false => exact counted_of_zero h
      | true =>
        show counterInRange 4 .shiftDat
        exact ⟨by decide, by decide⟩

/-! ### The chip-selects, the output-enable and the wait counter -/

/-- The chip-selects after a cycle by where it goes: none into IDLE, the requested device out of it, else the ones
before (R24, R89, R102, R103). -/
theorem nextCs_eq (inp : Inputs) (s : State) :
    nextCs inp s =
      if nextState inp s = .idle then ChipSelects.none s.params.nCs
      else if s.state = .idle then ChipSelects.onehot s.params.nCs (dev s.params inp.adr)
      else s.cs := by
  unfold nextCs nextState
  cases hs : s.state <;> dsimp only
  case idle => split <;> rfl
  case waitCa => split <;> rfl
  case waitLat => split <;> rfl
  case shiftDat => split <;> rfl
  case ackXfer => rfl
  case waitNext =>
    split
    next => split <;> rfl
    next => split <;> rfl

/-- IDLE is left only with a request pending (R89). -/
theorem pending_of_nextState_ne_idle {inp : Inputs} {s : State} (hs : s.state = .idle)
    (hne : nextState inp s ≠ .idle) : pending inp = true := by
  refine Decidable.byContradiction fun hp => hne ?_
  simp only [nextState, hs, if_neg hp]

/-- A fault-free cycle without reset in IDLE has only a mapped word requested (R90). -/
theorem mapped_of_faultFree {inp : Inputs} {s : State} (hr : inp.rst = false) (hf : faultFree inp s = true)
    (hs : s.state = .idle) (hp : pending inp = true) : dev s.params inp.adr < s.params.nCs := by
  refine Decidable.byContradiction fun hm => ?_
  simp [faultFree, raisesUnmapped, hr, hs, hp, mapped, hm] at hf

/-- Outside IDLE only a continuation latches an address, and it has the device of the one before (R111, R168). -/
theorem dev_nextLastAdr {inp : Inputs} {s : State} (hvalid : s.params.Valid) (hs : s.state ≠ .idle) :
    dev s.params (nextLastAdr inp s) = dev s.params s.lastAdr := by
  unfold nextLastAdr
  split
  next haccepted =>
    have hcont : cont inp.adr s.lastAdr = true := by
      simp only [accepted, Bool.and_eq_true, Bool.or_eq_true, beq_iff_eq, hs, false_or] at haccepted
      obtain ⟨-, -, hcont⟩ := haccepted
      exact hcont
    exact dev_eq_of_cont hvalid hcont
  next => rfl

/-- The chip-selects follow the table: IDLE selects the device of the word it accepts, and every other state keeps the
selected device or leaves none on its way to IDLE (R35). -/
theorem csInTable_nextOf {inp : Inputs} {s : State} (hinv : s.Inv) (hr : inp.rst = false)
    (hf : faultFree inp s = true) : (nextOf inp s).csInTable := by
  have hcs : (nextOf inp s).cs = nextCs inp s := rfl
  rw [nextCs_eq] at hcs
  unfold State.csInTable
  split
  next hidle => exact hcs.trans (if_pos hidle)
  next hne =>
    have hne' : nextState inp s ≠ .idle := hne
    rw [if_neg hne'] at hcs
    by_cases hs : s.state = .idle
    · have hp : pending inp = true := pending_of_nextState_ne_idle hs hne'
      have hmapped : dev s.params inp.adr < s.params.nCs := mapped_of_faultFree hr hf hs hp
      have hla : (nextOf inp s).lastAdr = inp.adr := by simp [nextOf, nextLastAdr, accepted, hp, hs]
      rw [if_pos hs] at hcs
      rw [State.Selected, hla, hcs]
      exact ⟨hmapped, rfl⟩
    · obtain ⟨hmapped, hselected⟩ := hinv.selected hs
      obtain ⟨hvalid, -⟩ := hinv
      have hdev : dev s.params (nextOf inp s).lastAdr = dev s.params s.lastAdr := dev_nextLastAdr hvalid hs
      rw [if_neg hs, hselected, ← hdev] at hcs
      exact ⟨hdev ▸ hmapped, hcs⟩

/-- The output-enable is set in WAIT_CA and only there (R25, R35). -/
theorem nextDqOe_eq {inp : Inputs} {s : State} (h : s.dqOe = decide (s.state = .waitCa)) :
    nextDqOe inp s = decide (nextState inp s = .waitCa) := by
  rw [nextDqOe_eq_of_edge, h]
  have hedge := edge_nextState inp s
  generalize s.state = st, nextState inp s = st' at hedge
  cases hedge with
  | stay => cases st <;> rfl
  | _ => rfl

/-- The wait counter never leaves its range (R23, R97). -/
theorem nextWcount_le {s : State} (h : s.wcount ≤ 9) : nextWcount s ≤ 9 := by
  unfold nextWcount
  split
  next => decide
  next => decide
  next => split <;> bv_omega
  next => exact h

/-- A cycle that ends in WAIT_NEXT leaves the window open: ACK_XFER opens it, and WAIT_NEXT stays only while it does not
expire (R97, R100). -/
theorem nextWcount_pos {inp : Inputs} {s : State} (h : nextState inp s = .waitNext) : 1 ≤ nextWcount s := by
  have hedge := edge_nextState inp s
  rw [h] at hedge
  generalize hst : s.state = st at hedge
  cases hedge with
  | windowOpens => simp [nextWcount, hst, Config.waitNextLoad]
  | stay =>
    have hopen : ¬ windowExpires s = true := by
      intro hw
      simp only [nextState, hst, hw, if_true] at h
      split at h
      next => split at h <;> cases h
      next => cases h
    have hcount : nextWcount s = if s.wcount ≠ 0 then s.wcount - 1 else s.wcount := by simp only [nextWcount, hst]
    simp only [windowExpires, decide_eq_true_eq] at hopen
    rw [hcount]
    split <;> bv_omega

/-! ### The invariant is kept -/

/-- A reset cycle ends in IDLE's row of the table (R173). -/
theorem State.Inv.reset {inp : Inputs} {s : State} (hinv : s.Inv) (hr : inp.rst = true) (o : Outputs) :
    ((phaseN inp s).resetRegisters.endCycle o).Inv := by
  obtain ⟨hvalid, -⟩ := hinv
  have hck : nextCk inp s = false := nextCk_of_reset s hr
  exact (State.inv_iff _).2 ⟨hvalid, rfl, rfl, rfl, (fun h => nomatch h), by simp, by simpa using hck⟩

/-- A cycle without reset and without a fault keeps the invariant. -/
theorem State.Inv.nextOf {inp : Inputs} {s : State} (hinv : s.Inv) (hr : inp.rst = false)
    (hf : faultFree inp s = true) : (nextOf inp s).Inv := by
  obtain ⟨hvalid, hcounter, -, hoe, -, hwcount, -⟩ := s.inv_iff.1 hinv
  exact (State.inv_iff _).2 ⟨hvalid, counterInRange_nextCounter hr hf hcounter, csInTable_nextOf hinv hr hf,
    nextDqOe_eq hoe, nextWcount_pos, nextWcount_le hwcount, nextCk_eq_parity hinv hr⟩

/-- Every operation's cycle keeps the invariant. -/
theorem State.Inv.exec {i : Instr} {s t : State} (hinv : s.Inv) (h : exec i s = .next t) : t.Inv := by
  obtain ⟨hr, rfl⟩ | ⟨hr, hf, rfl⟩ := exec_next h
  · exact (hinv.carriedIn i).reset (by simpa using hr) _
  · exact (hinv.carriedIn i).nextOf (by simpa using hr) (by rwa [faultFree_carriedIn])

end Sys2Proof.Machine

namespace Sys2Proof.Proofs
open Sys2Proof.Machine

/-- Settles O33: a step is the cycle of its bus operation, and every operation's cycle keeps each column of the
table. -/
theorem stepKeepsTheStateTable : Obligations.StepKeepsTheStateTable := by
  unfold Obligations.StepKeepsTheStateTable
  intro s t hinv
  exact ⟨hinv.exec (i := s.busOperation), fun i => hinv.exec⟩

/-- Settles O31: the values are those `State.resetWith` writes. -/
theorem resetStateValues : Obligations.ResetStateValues := by
  unfold Obligations.ResetStateValues
  exact ⟨fun p sr adr => ⟨rfl, rfl, rfl, rfl, rfl, rfl, rfl⟩, Params.testVectors, 0, 0, rfl⟩

/-- Settles O32: the reset values are IDLE's row of the table. -/
theorem resetSatisfiesTheTable : Obligations.ResetSatisfiesTheTable := by
  unfold Obligations.ResetSatisfiesTheTable
  have hreset (p : Params) (sr : Packet) (adr : WordAdr) (hvalid : p.Valid) : (State.resetWith p sr adr).Inv :=
    (State.inv_iff _).2 ⟨hvalid, rfl, rfl, rfl, (fun h => nomatch h), by simp [State.resetWith],
      by simp [State.resetWith]⟩
  exact ⟨hreset, hreset _ _ _ (by decide)⟩

end Sys2Proof.Proofs
end

section
/-! Operations, words and steps (30_encoding.md R76; 60_exceptions.md R157). -/
namespace Sys2Proof.Machine

/-- Whether a cycle raises UnmappedDevice does not depend on the shift register. -/
@[simp] theorem raisesUnmapped_carriedIn (i : Instr) (inp : Inputs) (s : State) :
    raisesUnmapped inp (carriedIn i s) = raisesUnmapped inp s := by
  obtain ⟨w, h⟩ := carriedIn_eq i s; rw [h]; rfl

/-- Whether a cycle raises LatencyZero does not depend on the shift register. -/
@[simp] theorem raisesLatencyZero_carriedIn (i : Instr) (inp : Inputs) (s : State) :
    raisesLatencyZero inp (carriedIn i s) = raisesLatencyZero inp s := by
  obtain ⟨w, h⟩ := carriedIn_eq i s; rw [h]; rfl

theorem packetStarts_iff (s : State) : packetStarts s = true ↔ s.state = .waitCa ∧ s.counter = 6 := by
  simp [packetStarts, Config.caLoad]

/-- The cycle of an operation that drives the inputs the cycle has, on the carrier the cycle has, is the step. -/
theorem exec_eq_step {i : Instr} {s : State} (hdriven : drivenBy i s.inputs = s.inputs) (hcarried : carriedIn i s = s) :
    exec i s = step s := by
  rw [exec_eq_runCycle, hdriven, hcarried, step_eq_runCycle]

/-- CA_READ_LINEAR of the packet that stands in the shift register is the step (R91). -/
theorem exec_caReadLinear_of_sr {s : State} {upper : BitVec 29} {lower : BitVec 2} (h : s.sr = packetOf upper lower) :
    exec (.caReadLinear upper lower) s = step s := by
  have hcarried : carriedIn (.caReadLinear upper lower) s = s := by
    unfold carriedIn
    dsimp only
    split
    next => rw [← h]; rfl
    next => rfl
  exact exec_eq_step rfl hcarried

/-- A request word placed on the bus port is the cycle's request word (R74). -/
theorem breqOf_withBreq (inp : Inputs) (w : BitVec 32) : breqOf (withBreq inp w) = w := breq_eq_append w

/-- A control word placed on the control port is the cycle's control word (R75). -/
theorem creqOf_withCreq (inp : Inputs) (w : BitVec 33) : creqOf (withCreq inp w) = w := creq_eq_append w

/-- The three cases of a word read from the table's numbering, by width. -/
theorem portWordOfBits_eq_ok {nbits w : Nat} {p : PortWord} (h : portWordOfBits nbits w = .ok p) :
    (nbits ≤ 32 ∧ p = .breq (BitVec.ofNat 32 w)) ∨
    (¬ nbits ≤ 32 ∧ nbits ≤ 40 ∧ p = .creq (BitVec.ofNat 33 w)) ∨
    (¬ nbits ≤ 32 ∧ ¬ nbits ≤ 40 ∧ p = .ca (BitVec.ofNat 48 w)) := by
  unfold portWordOfBits at h
  split at h
  next hle =>
    split at h <;> cases h
    exact .inl ⟨hle, rfl⟩
  next hgt =>
    split at h
    next hle =>
      split at h <;> cases h
      exact .inr (.inl ⟨hgt, hle, rfl⟩)
    next hgt' =>
      split at h
      next =>
        split at h <;> cases h
        exact .inr (.inr ⟨hgt, hgt', rfl⟩)
      next => cases h

/-- The bus word of a cycle decodes to its bus operation, which is the step (R74). -/
theorem step_eq_exec_of_breq {s : State} {i : Instr} (h : decode (.breq (breqOf s.inputs)) = .ok i) :
    step s = exec i s := by
  cases h; rfl

/-- The control word of a cycle decodes to its control operation, whose cycle is the step (R75). -/
theorem step_eq_exec_of_creq {s : State} {i : Instr} (h : decode (.creq (creqOf s.inputs)) = .ok i) :
    step s = exec i s := by
  cases h
  exact (step_eq_runCycle s).trans (exec_ctrlOperation s).symm

/-- The packet in the shift register decodes to an operation whose cycle is the step (R91). -/
theorem step_eq_exec_of_ca {s : State} {i : Instr} (h : decode (.ca s.sr) = .ok i) : step s = exec i s := by
  have hencode : encode i = .ca s.sr := encode_of_decodeCa h
  obtain ⟨-, rfl⟩ := decodeCa_eq_ok.1 h
  rw [encode_caReadLinear, PortWord.ca.injEq] at hencode
  exact (exec_caReadLinear_of_sr hencode.symm).symm

end Sys2Proof.Machine

namespace Sys2Proof.Proofs
open Sys2Proof.Machine

/-- Settles O7: the cycle of each operation read from the cycle's own words drives the inputs, and has the carrier, the
cycle has. -/
theorem stepRunsTheDecodedOperation : Obligations.StepRunsTheDecodedOperation := by
  unfold Obligations.StepRunsTheDecodedOperation
  exact fun s i => ⟨step_eq_exec_of_breq, step_eq_exec_of_creq, fun _ _ => step_eq_exec_of_ca⟩

/-- Settles O8: the state with a word placed carries that word, so its step runs it. -/
theorem placedWordIsRun : Obligations.PlacedWordIsRun := by
  unfold Obligations.PlacedWordIsRun
  intro s nbits w i h
  obtain ⟨p, hp, hdecode⟩ := decodeTableWord_eq_some.1 h
  unfold State.withFetchWord
  obtain ⟨hle, rfl⟩ | ⟨hgt, hle, rfl⟩ | ⟨hgt, hgt', rfl⟩ := portWordOfBits_eq_ok hp
  · rw [if_pos hle]
    refine step_eq_exec_of_breq ?_
    rwa [State.inputsAt_placeInputs_zero, breqOf_withBreq]
  · rw [if_neg hgt, if_pos hle]
    refine step_eq_exec_of_creq ?_
    rwa [State.inputsAt_placeInputs_zero, creqOf_withCreq]
  · rw [if_neg hgt, if_neg hgt']
    exact step_eq_exec_of_ca hdecode

/-- Settles O9: the cycle of an operation is the cycle of the inputs it drives, and the packet decides no fault. -/
theorem cycleFaultsExactlyWhen : Obligations.CycleFaultsExactlyWhen := by
  unfold Obligations.CycleFaultsExactlyWhen
  intro i s
  rw [exec_eq_runCycle]
  refine ⟨fun h => runCycle_unmapped (by simpa using h), fun h => ?_, fun h => ?_⟩
  · rw [runCycle_latencyZero (by simpa using h), carriedIn_latency, carriedIn_lastAdr]
  · rw [← faultFree_carriedIn i] at h
    cases hr : (drivenBy i s.inputs).rst with
    | true => exact ⟨_, runCycle_reset _ hr⟩
    | false => exact ⟨_, runCycle_closed hr h⟩

/-- Settles O26: without a packet starting, the operation has the cycle's own inputs and carrier. -/
theorem packetElsewhereIsThePlainCycle : Obligations.PacketElsewhereIsThePlainCycle := by
  unfold Obligations.PacketElsewhereIsThePlainCycle
  intro s upper lower h
  have hstarts : ¬ packetStarts s = true := fun hstarts => by
    obtain ⟨hs, hc⟩ := (packetStarts_iff s).1 hstarts
    exact h.elim (· hs) (· hc)
  exact exec_eq_step rfl (if_neg hstarts)

end Sys2Proof.Proofs
end

section
/-! The outputs and the derived clock of a cycle (10_state.md R34, 41_clock_phase.md R114). -/
namespace Sys2Proof.Proofs
open Sys2Proof.Machine

/-- Settles O10: a cycle records the outputs of the state it starts in, and phase N's level is the clock it leaves. -/
theorem outputsOfACycle : Obligations.OutputsOfACycle := by
  unfold Obligations.OutputsOfACycle
  intro i s t h
  rw [exec_eq_runCycle] at h
  obtain ⟨-, -, -, hck, hout⟩ := runCycle_keeps h
  have hcsN : (carriedIn i s).cs.complement = ⟨s.cs.width, ~~~s.cs.bits⟩ := by rw [carriedIn_cs]; rfl
  have hack : Machine.ack (carriedIn i s) = decide (s.state = .ackXfer) := by rw [Machine.ack, carriedIn_state]; rfl
  rw [hout, hck, outputsOf, hcsN, hack]
  simp [Machine.datR, Machine.ctrlRdata, ckP, ckN, dqOut]

/-- Settles O11: the clock of a cycle is phase N's, whatever the operation. -/
theorem derivedClockUpdate : Obligations.DerivedClockUpdate := by
  unfold Obligations.DerivedClockUpdate
  intro i s t h
  rw [ck_of_exec h, nextCk]
  simp [anySelected, active]

end Sys2Proof.Proofs
end

section
/-! The bus inputs of a cycle (40_sequencer.md R110; 43_bus_adapter.md R137). -/
namespace Sys2Proof.Machine

/-- The bus inputs act on a cycle through the sequencer's rule only. -/
theorem runCycle_congr_bus {inp : Inputs} {s : State} {cyc stb : Bool} {adr : WordAdr}
    (h : ∀ t,
      stateStep { inp with cyc := cyc, stb := stb, adr := adr } (phaseN inp s) t = stateStep inp (phaseN inp s) t) :
    runCycle { inp with cyc := cyc, stb := stb, adr := adr } s = runCycle inp s := by
  have hphase : phaseP { inp with cyc := cyc, stb := stb, adr := adr } (phaseN inp s) = phaseP inp (phaseN inp s) := by
    simp only [phaseP]
    rw [← h]
    rfl
  unfold runCycle
  rw [← hphase]
  rfl

/-- A state that does not examine the bus takes every bus input alike (R110). -/
theorem runCycle_of_busy (inp : Inputs) {s : State}
    (hs : s.state = .waitCa ∨ s.state = .waitLat ∨ s.state = .shiftDat ∨ s.state = .ackXfer) (cyc stb : Bool)
    (adr : WordAdr) : runCycle { inp with cyc := cyc, stb := stb, adr := adr } s = runCycle inp s := by
  refine runCycle_congr_bus fun t => ?_
  unfold stateStep
  obtain hs | hs | hs | hs := hs <;> simp only [phaseN_state, hs]

/-- Of a cycle without a request no rule reads more than that (R137). -/
theorem stateStep_of_no_request {a b : Inputs} (ha : pending a = false) (hb : pending b = false) (s t : State) :
    stateStep a s t = stateStep b s t := by
  unfold stateStep
  cases s.state <;> simp only [idleStep, waitNextStep, ha, hb, Bool.false_eq_true, if_false]

end Sys2Proof.Machine

namespace Sys2Proof.Proofs
open Sys2Proof.Machine

/-- Settles O19: each bus operation's cycle is the cycle with the bus inputs as they stand. -/
theorem busyBlockIgnoresTheBus : Obligations.BusyBlockIgnoresTheBus := by
  unfold Obligations.BusyBlockIgnoresTheBus
  intro s a b c stb hs
  have hbus (cyc stb : Bool) (adr : WordAdr) := runCycle_of_busy s.inputs hs cyc stb adr
  exact ⟨(hbus true true a).trans (hbus false stb b).symm, (hbus true true a).trans (hbus true false c).symm⟩

/-- Settles O20: neither row has a request pending. -/
theorem noRequestFormsAgree : Obligations.NoRequestFormsAgree := by
  unfold Obligations.NoRequestFormsAgree
  intro s stb a b
  exact runCycle_congr_bus (inp := { s.inputs with cyc := true, stb := false, adr := b })
    fun t => stateStep_of_no_request rfl rfl _ t

end Sys2Proof.Proofs
end

section
/-! What no rule reads: the data pins steer nothing, the byte selects and the ready/data-strobe do nothing (10_state.md
R33; 30_encoding.md R71, R83; 60_exceptions.md R159). -/
namespace Sys2Proof.Machine

/-- A cycle, all of it in one equation: reset, the two faults, the closed form (R104, R157). -/
theorem runCycle_eq (inp : Inputs) (s : State) :
    runCycle inp s =
      if inp.rst then .next ((phaseN inp s).resetRegisters.endCycle (outputsOf inp s))
      else if raisesUnmapped inp s then .fault (.unmappedDevice inp.adr)
      else if raisesLatencyZero inp s then .fault (.latencyZero s.latency s.lastAdr)
      else .next (nextOf inp s) := by
  cases hr : inp.rst with
  | true => exact runCycle_reset s hr
  | false =>
    cases hu : raisesUnmapped inp s with
    | true => exact runCycle_unmapped hu
    | false =>
      cases hz : raisesLatencyZero inp s with
      | true => exact runCycle_latencyZero hz
      | false => exact runCycle_closed hr (by simp [faultFree, hu, hz])

/-- The inputs placed for a cycle beside those it runs with are spent unread, and of these no rule reads the byte
selects and the ready/data-strobe (R71, R83). -/
theorem runCycle_with_unused (inp placed : Inputs) (s : State) (sel : BitVec 4) (rwds : Bool) :
    runCycle { inp with sel := sel, rwdsI := rwds } (s.placeInputs placed) = runCycle inp s := by
  rw [runCycle_eq, runCycle_eq]
  rfl

/-- No operation drives the byte selects and the ready/data-strobe (R71, R83). -/
theorem drivenBy_with_unused (i : Instr) (inp : Inputs) (sel : BitVec 4) (rwds : Bool) :
    drivenBy i { inp with sel := sel, rwdsI := rwds } = { drivenBy i inp with sel := sel, rwdsI := rwds } := by
  cases i <;> rfl

/-- The carrier of an operation does not depend on the inputs. -/
theorem carriedIn_placeInputs (i : Instr) (s : State) (inp : Inputs) :
    carriedIn i (s.placeInputs inp) = (carriedIn i s).placeInputs inp := by
  cases i with
  | caReadLinear upper lower =>
    have hstarts : packetStarts (s.placeInputs inp) = packetStarts s := rfl
    simp only [carriedIn, hstarts]
    split <;> rfl
  | _ => rfl

/-- States that agree but for sampled data differ in the shift register, the inputs to come and the last outputs. -/
theorem SameButData.exists_eq {s s' : State} (h : SameButData s s') :
    ∃ w l o, s' = { s with sr := w, script := l, out := o } := by
  refine ⟨s'.sr, s'.script, s'.out, ?_⟩
  ext1 <;> simp [h.state, h.counter, h.wcount, h.cs, h.dqOe, h.lastAdr, h.latency, h.ck, h.params, h.cycle]

/-- Inputs that agree but for the device's pins and the byte selects. -/
theorem SameControlInputs.exists_eq {a b : Inputs} (h : SameControlInputs a b) :
    ∃ sel dq rwds, b = { a with sel := sel, dqI := dq, rwdsI := rwds } := by
  obtain ⟨hrst, hcyc, hstb, hadr, hwe, hwdata⟩ := h
  exact ⟨b.sel, b.dqI, b.rwdsI, by cases a; cases b; simp_all⟩

/-- After a reset cycle the inputs move up by one. -/
theorem inputsAt_reset (inp : Inputs) (s : State) (o : Outputs) (k : Nat) :
    ((phaseN inp s).resetRegisters.endCycle o).inputsAt k = s.inputsAt (k + 1) :=
  State.inputsAt_tail rfl rfl k

section
variable {inp inp' : Inputs} {s s' : State}

/-- Sampled data stays in the fields that hold it: the closed forms agree but for sampled data. -/
theorem SameButData.nextOf (h : SameButData s s') (hi : SameControlInputs inp inp') :
    SameButData (nextOf inp s) (nextOf inp' s') := by
  have hinputs (k : Nat) :
      SameControlInputs ((Machine.nextOf inp s).inputsAt k) ((Machine.nextOf inp' s').inputsAt k) := by
    rw [inputsAt_nextOf, inputsAt_nextOf]
    exact h.inputs (k + 1)
  obtain ⟨w, l, o, rfl⟩ := h.exists_eq
  obtain ⟨sel, dq, rwds, rfl⟩ := SameControlInputs.exists_eq hi
  exact ⟨rfl, rfl, rfl, rfl, rfl, rfl, rfl, rfl, rfl, rfl, hinputs⟩

/-- After a reset cycle the states agree in every register but the shift register's draw, and that is one draw. -/
theorem SameButData.reset (h : SameButData s s') (hi : SameControlInputs inp inp') (o o' : Outputs) :
    SameButData ((phaseN inp s).resetRegisters.endCycle o) ((phaseN inp' s').resetRegisters.endCycle o') := by
  have hinputs (k : Nat) : SameControlInputs (((phaseN inp s).resetRegisters.endCycle o).inputsAt k)
      (((phaseN inp' s').resetRegisters.endCycle o').inputsAt k) := by
    rw [inputsAt_reset, inputsAt_reset]
    exact h.inputs (k + 1)
  obtain ⟨w, l, o, rfl⟩ := h.exists_eq
  obtain ⟨sel, dq, rwds, rfl⟩ := SameControlInputs.exists_eq hi
  exact ⟨rfl, rfl, rfl, rfl, rfl, rfl, rfl, rfl, rfl, rfl, hinputs⟩

end

/-- Two cycles' outcomes agree but for sampled data: the same fault, or next states that agree so. -/
inductive SameOutcome : Host.Outcome State Fault Refusal → Host.Outcome State Fault Refusal → Prop where
  | next {t t' : State} (h : SameButData t t') : SameOutcome (.next t) (.next t')
  | fault (f : Fault) : SameOutcome (.fault f) (.fault f)

/-- Cycles that agree but for sampled data have outcomes that agree so: neither the faults' conditions nor what they
record reads sampled data. -/
theorem sameOutcome_runCycle {inp inp' : Inputs} {s s' : State} (h : SameButData s s')
    (hi : SameControlInputs inp inp') : SameOutcome (runCycle inp s) (runCycle inp' s') := by
  have hconditions : raisesUnmapped inp' s' = raisesUnmapped inp s ∧
      raisesLatencyZero inp' s' = raisesLatencyZero inp s := by
    obtain ⟨w, l, o, rfl⟩ := h.exists_eq
    obtain ⟨sel, dq, rwds, rfl⟩ := SameControlInputs.exists_eq hi
    exact ⟨rfl, rfl⟩
  obtain ⟨hunmapped, hzero⟩ := hconditions
  have hnext := h.nextOf hi
  have hreset := h.reset hi (outputsOf inp s) (outputsOf inp' s')
  obtain ⟨hrst, -, -, hadr, -, -⟩ := hi
  rw [runCycle_eq inp, runCycle_eq inp', hunmapped, hzero, ← hrst, ← hadr, ← h.latency, ← h.lastAdr]
  split
  next => exact .next hreset
  next =>
    split
    next => exact .fault _
    next =>
      split
      next => exact .fault _
      next => exact .next hnext

end Sys2Proof.Machine

namespace Sys2Proof.Proofs
open Sys2Proof.Machine

/-- Settles O40: a step is the cycle of the current inputs, and such cycles have outcomes that agree. -/
theorem dataPinsDoNotSteer : Obligations.DataPinsDoNotSteer := by
  unfold Obligations.DataPinsDoNotSteer
  intro s s' h
  have hsame := sameOutcome_runCycle h (h.inputs 0)
  rw [← State.inputs_eq, ← State.inputs_eq, ← step_eq_runCycle, ← step_eq_runCycle] at hsame
  generalize step s = r, step s' = r' at hsame
  cases hsame with
  | next ht => exact ⟨fun f => by simp, fun t htt => by cases htt; exact ⟨_, rfl, ht⟩⟩
  | fault f => exact ⟨fun _ => Iff.rfl, fun t ht => nomatch ht⟩

/-- Settles O41: the operation's cycle drives neither input and reads neither. -/
theorem unusedInputsHaveNoEffect : Obligations.UnusedInputsHaveNoEffect := by
  unfold Obligations.UnusedInputsHaveNoEffect
  intro i s sel rwds
  rw [exec_eq_runCycle, exec_eq_runCycle, State.inputsAt_placeInputs_zero, drivenBy_with_unused,
    carriedIn_placeInputs, runCycle_with_unused]

end Sys2Proof.Proofs
end

section
/-! The IDLE and the WAIT_NEXT step as the named updates of their rules (40_sequencer.md R89, R100 to R103). -/
namespace Sys2Proof.Machine

section
variable {inp : Inputs} {s : State}

/-- A cycle in which nothing is counted and the clock stays writes what the rule of its state writes, and the latency
(R104). -/
theorem nextOf_of_rule {u : State} (hr : inp.rst = false) (ha : active s = false) (hck : nextCk inp s = s.ck)
    (hu : stateStep inp s s = .ok u) (hl : u.latency = s.latency) :
    nextOf inp s = (u.writeLatency (latencyAfter inp s)).endCycle (outputsOf inp s) := by
  have hphase : phaseN inp s = s := by simp [phaseN, hck, State.setCk]
  have hgeneric : genericActions inp s = s := if_neg (by simp [ha])
  have hwrite : controlWrite inp u = u.writeLatency (latencyAfter inp s) := by ext1 <;> simp [latencyAfter, hl]
  rw [← hwrite]
  exact (eq_nextOf_of_next hr (runCycle_of_rule hr (by rw [hphase, hgeneric, hu]))).symm

/-- In IDLE and WAIT_NEXT nothing is counted and the clock stays (R35, R115, R190). -/
theorem inactive_of_examinesBus (hinv : s.Inv) (hs : s.state = .idle ∨ s.state = .waitNext) :
    active s = false ∧ nextCk inp s = s.ck := by
  have hc : s.counter = 0 := hinv.counter_of_inactive (hs.imp_right .inr)
  have hck : s.ck = false := by rw [hinv.ck_eq, hc]; rfl
  exact ⟨by simp [active, hc], by rw [nextCk_of_low inp hc hck, hck]⟩

/-- IDLE accepts a pending request for a mapped word (R89). -/
theorem nextOf_of_idle_pending (hinv : s.Inv) (hs : s.state = .idle) (hr : inp.rst = false) (hp : pending inp = true)
    (hm : mapped s.params inp.adr = true) :
    nextOf inp s =
      ((s.idleEntry.acceptFresh inp.adr).writeLatency (latencyAfter inp s)).endCycle (outputsOf inp s) := by
  obtain ⟨ha, hck⟩ := inactive_of_examinesBus hinv (.inl hs)
  exact nextOf_of_rule hr ha hck (by simp [stateStep, idleStep, hs, hp, hm]) rfl

/-- IDLE without a request does its entry actions only (R89). -/
theorem nextOf_of_idle_quiet (hinv : s.Inv) (hs : s.state = .idle) (hr : inp.rst = false) (hp : pending inp = false) :
    nextOf inp s = (s.idleEntry.writeLatency (latencyAfter inp s)).endCycle (outputsOf inp s) := by
  obtain ⟨ha, hck⟩ := inactive_of_examinesBus hinv (.inl hs)
  exact nextOf_of_rule hr ha hck (by simp [stateStep, idleStep, hs, hp]) rfl

/-- WAIT_NEXT accepts a continuation (R100). -/
theorem nextOf_of_continuation (hinv : s.Inv) (hs : s.state = .waitNext) (hr : inp.rst = false)
    (hp : pending inp = true) (hcont : cont inp.adr s.lastAdr = true) :
    nextOf inp s =
      ((s.countWindow.acceptContinuation inp.adr).writeLatency (latencyAfter inp s)).endCycle (outputsOf inp s) := by
  obtain ⟨ha, hck⟩ := inactive_of_examinesBus hinv (.inr hs)
  exact nextOf_of_rule hr ha hck (by simp [stateStep, waitNextStep, hs, hp, hcont]) rfl

/-- WAIT_NEXT goes back to IDLE for a request that is no continuation, and when the window expires (R102, R103). -/
theorem nextOf_of_release (hinv : s.Inv) (hs : s.state = .waitNext) (hr : inp.rst = false)
    (h : pending inp = true ∧ cont inp.adr s.lastAdr = false ∨ pending inp = false ∧ windowExpires s = true) :
    nextOf inp s = (s.countWindow.releaseToIdle.writeLatency (latencyAfter inp s)).endCycle (outputsOf inp s) := by
  obtain ⟨ha, hck⟩ := inactive_of_examinesBus hinv (.inr hs)
  refine nextOf_of_rule hr ha hck ?_ rfl
  obtain ⟨hp, hcont⟩ | ⟨hp, hw⟩ := h
  · simp [stateStep, waitNextStep, hs, hp, hcont]
  · simp [stateStep, waitNextStep, hs, hp, hw]

/-- WAIT_NEXT counts the window down while there is no request (R100). -/
theorem nextOf_of_window (hinv : s.Inv) (hs : s.state = .waitNext) (hr : inp.rst = false) (hp : pending inp = false)
    (hw : windowExpires s = false) :
    nextOf inp s = (s.countWindow.writeLatency (latencyAfter inp s)).endCycle (outputsOf inp s) := by
  obtain ⟨ha, hck⟩ := inactive_of_examinesBus hinv (.inr hs)
  exact nextOf_of_rule hr ha hck (by simp [stateStep, waitNextStep, hs, hp, hw]) rfl

end

/-- Neither BUS_NOREQ row has a request pending, and neither drives the control port (R74, R137). -/
theorem drivenBy_noRequest {i : Instr} {stb : Bool} {adr : WordAdr}
    (hi : i = .busNoreqCyc stb adr ∨ i = .busNoreqStb adr) (inp : Inputs) (s : State) :
    pending (drivenBy i inp) = false ∧ latencyAfter (drivenBy i inp) s = latencyAfter inp s := by
  obtain rfl | rfl := hi <;> exact ⟨rfl, rfl⟩

/-- BUS_READ has its own request pending, and does not drive the control port (R74, R136). -/
theorem drivenBy_busRead (adr : WordAdr) (inp : Inputs) (s : State) :
    pending (drivenBy (.busRead adr) inp) = true ∧ (drivenBy (.busRead adr) inp).adr = adr ∧
      latencyAfter (drivenBy (.busRead adr) inp) s = latencyAfter inp s :=
  ⟨rfl, rfl, rfl⟩

/-- IDLE faults only on a request (R90). -/
theorem faultFree_of_idle_of_quiet {inp : Inputs} {s : State} (hs : s.state = .idle) (hp : pending inp = false) :
    faultFree inp s = true := by
  simp [faultFree, raisesUnmapped, raisesLatencyZero, hs, hp]

/-- The cycle of any operation in WAIT_NEXT answers the closed form. -/
theorem exec_of_waitNext (i : Instr) {s : State} (hs : s.state = .waitNext) (hr : s.inputs.rst = false) :
    exec i s = .next (nextOf (drivenBy i s.inputs) s) := by
  have hexec := exec_closed (i := i) hr (faultFree_of_ne (by simp [hs]) (by simp [hs]) _)
  rwa [carriedIn_of_ne (by simp [hs])] at hexec

/-- In WAIT_NEXT the window has not expired, so it counts (R23, R35). -/
theorem State.Inv.countWindow_wcount {s : State} (hinv : s.Inv) (hs : s.state = .waitNext) :
    s.countWindow.wcount = s.wcount - 1 ∧ (windowExpires s = true ↔ s.wcount = 1) := by
  obtain ⟨-, -, -, -, -, -, hNext, -, -⟩ := hinv
  obtain ⟨-, -, -, hpos⟩ := hNext hs
  refine ⟨if_pos (by bv_omega), ?_⟩
  simp only [windowExpires, decide_eq_true_eq]
  constructor <;> intro <;> bv_omega

end Sys2Proof.Machine

namespace Sys2Proof.Proofs
open Sys2Proof.Machine

/-- Settles O13: the mapped request is accepted, the unmapped one is R90's fault, and without a request only the entry
actions are done. -/
theorem idleStep : Obligations.IdleStep := by
  unfold Obligations.IdleStep
  intro s hinv hs hr
  have hr' (i : Instr) : (drivenBy i s.inputs).rst = false := (drivenBy_rst i _).trans hr
  have hc : s.counter = 0 := hinv.counter_of_inactive (.inl hs)
  have hck : s.ck = false := by rw [hinv.ck_eq, hc]; rfl
  refine ⟨fun adr hmapped => ⟨?_, fun sel => ?_⟩, fun adr hunmapped => ?_, fun i stb adr hi => ?_⟩
  · have hexec := exec_busRead_of_idle_of_mapped hs hr (decide_eq_true hmapped)
    obtain ⟨hp, hadr, hlatency⟩ := drivenBy_busRead adr s.inputs s
    rw [nextOf_of_idle_pending hinv hs (hr' _) hp (by rw [hadr]; exact decide_eq_true hmapped), hadr, hlatency] at hexec
    exact ⟨_, hexec, rfl, rfl, rfl, rfl, rfl, rfl, rfl, rfl, hck, rfl⟩
  · exact unusedInputsHaveNoEffect (.busRead adr) s sel s.inputs.rwdsI
  · have hraises : raisesUnmapped (drivenBy (.busRead adr) s.inputs) s = true := by
      simp [raisesUnmapped, drivenBy, pending, mapped, hr, hs, hunmapped]
    exact runCycle_unmapped hraises
  · obtain ⟨hp, hlatency⟩ := drivenBy_noRequest hi s.inputs s
    have hexec := exec_closed (i := i) hr (faultFree_of_idle_of_quiet hs hp)
    rw [carriedIn_of_ne (by simp [hs]), nextOf_of_idle_quiet hinv hs (hr' i) hp, hlatency] at hexec
    exact ⟨_, hexec, hs, rfl, rfl, rfl, rfl, rfl, rfl, rfl, hck, rfl⟩

/-- Settles O14: a request continues or releases, and without one the window counts, or expires at 1. -/
theorem waitNextStep : Obligations.WaitNextStep := by
  unfold Obligations.WaitNextStep
  intro s hinv hs hr
  have hc : s.counter = 0 := hinv.counter_of_inactive (.inr (.inr hs))
  have hr' (i : Instr) : (drivenBy i s.inputs).rst = false := (drivenBy_rst i _).trans hr
  obtain ⟨hwcount, hexpires⟩ := hinv.countWindow_wcount hs
  refine ⟨fun adr hcont => ?_, fun adr hcont => ?_, fun i stb adr hi => ?_⟩
  · obtain ⟨hp, hadr, hlatency⟩ := drivenBy_busRead adr s.inputs s
    have hexec := exec_of_waitNext (.busRead adr) hs hr
    rw [nextOf_of_continuation hinv hs (hr' _) hp (by rwa [hadr]), hadr, hlatency] at hexec
    exact ⟨_, hexec, rfl, rfl, rfl, hwcount, rfl, rfl, rfl, rfl, rfl, rfl⟩
  · obtain ⟨hp, hadr, hlatency⟩ := drivenBy_busRead adr s.inputs s
    have hexec := exec_of_waitNext (.busRead adr) hs hr
    rw [nextOf_of_release hinv hs (hr' _) (.inl ⟨hp, by rwa [hadr]⟩), hlatency] at hexec
    exact ⟨_, hexec, rfl, rfl, hc, rfl, hwcount, rfl, rfl, rfl, rfl, rfl⟩
  · obtain ⟨hp, hlatency⟩ := drivenBy_noRequest hi s.inputs s
    have hexec := exec_of_waitNext i hs hr
    by_cases hw : s.wcount = 1
    · rw [nextOf_of_release hinv hs (hr' i) (.inr ⟨hp, hexpires.2 hw⟩), hlatency] at hexec
      exact ⟨_, hexec, (if_pos hw).symm, (if_pos hw).symm, hc, rfl, hwcount, rfl, rfl, rfl, rfl, rfl⟩
    · have hopen : windowExpires s = false := Bool.eq_false_iff.2 (mt hexpires.1 hw)
      rw [nextOf_of_window hinv hs (hr' i) hp hopen, hlatency] at hexec
      exact ⟨_, hexec, hs.trans (if_neg hw).symm, (if_neg hw).symm, hc, rfl, hwcount, rfl, rfl, rfl, rfl, rfl⟩

end Sys2Proof.Proofs
end

section
/-! The control register's operations (44_latency_store.md R148, R149; 40_sequencer.md R92). -/
namespace Sys2Proof.Machine

/-- The control operations of a fault-free cycle answer closed forms that differ in the latency alone (R148, R150). -/
theorem nextOf_ctrlWrite_eq (inp : Inputs) (s : State) (w v : BusWord) :
    nextOf (drivenBy (.ctrlWrite w) inp) s =
      { nextOf (drivenBy (.ctrlRead v) inp) s with latency := w.extractLsb' 0 5 } := rfl

/-- Neither control operation changes whether the cycle faults (R150). -/
theorem faultFree_ctrl (inp : Inputs) (s : State) (w : BusWord) :
    faultFree (drivenBy (.ctrlWrite w) inp) s = faultFree inp s ∧
      faultFree (drivenBy (.ctrlRead w) inp) s = faultFree inp s := ⟨rfl, rfl⟩

/-- A zero-extended latency is zero above bit 4 (R149). -/
theorem extractLsb'_setWidth_latency (l : BitVec 5) : (l.setWidth 32).extractLsb' 5 27 = 0 := by
  apply BitVec.eq_of_getLsbD_eq
  intro i hi
  simp

/-- The exit of WAIT_CA with a latency of at least 1 raises no fault (R93). -/
theorem faultFree_of_waitCa {s : State} (hs : s.state = .waitCa) (hl : s.latency ≠ 0) (inp : Inputs) :
    faultFree inp s = true := by
  simp only [faultFree, raisesUnmapped, raisesLatencyZero, hs, beq_eq_false_iff_ne.2 hl]
  simp

end Sys2Proof.Machine

namespace Sys2Proof.Proofs
open Sys2Proof.Machine

/-- Settles O21: both operations answer the closed form of the same cycle. -/
theorem controlWriteStoresFiveBits : Obligations.ControlWriteStoresFiveBits := by
  unfold Obligations.ControlWriteStoresFiveBits
  intro s w v hr hf
  obtain ⟨hwrite, -⟩ := faultFree_ctrl s.inputs s w
  obtain ⟨-, hread⟩ := faultFree_ctrl s.inputs s v
  exact ⟨_, _, _, exec_closed (i := .ctrlWrite w) hr (hwrite.trans hf),
    exec_closed (i := .ctrlRead v) hr (hread.trans hf),    nextOf_ctrlWrite_eq s.inputs s w v, rfl, rfl⟩

/-- Settles O22: the cycle does not fault and writes no latency; the port shows the one before. -/
theorem controlReadShowsTheLatency : Obligations.ControlReadShowsTheLatency := by
  unfold Obligations.ControlReadShowsTheLatency
  intro s v hr hf
  obtain ⟨-, hread⟩ := faultFree_ctrl s.inputs s v
  refine ⟨_, _, exec_closed (i := .ctrlRead v) hr (hread.trans hf), rfl, rfl, ?_,
    extractLsb'_setWidth_latency s.latency⟩
  exact (BitVec.extractLsb'_setWidth_of_le (b := s.latency) (by decide)).trans BitVec.extractLsb'_eq_self

/-- Settles O24: the exit loads from the latency before the phase, and the write comes after. -/
theorem latencyWriteInExitCycleUnused : Obligations.LatencyWriteInExitCycleUnused := by
  unfold Obligations.LatencyWriteInExitCycleUnused
  intro s w hs hc hl hr
  have hstate : nextState (drivenBy (.ctrlWrite w) s.inputs) s = .waitLat := by
    simp [nextState, hs, (lastCount_iff s).2 hc]
  have hcounter := nextCounter_of_waitCa_last hs hc (drivenBy (.ctrlWrite w) s.inputs)
  exact ⟨_, exec_closed (i := .ctrlWrite w) hr (faultFree_of_waitCa hs hl _), hstate,
    (congrArg BitVec.toNat hcounter).trans (toNat_latencyLoad hl), rfl⟩

end Sys2Proof.Proofs
end

section
/-! The first cycle of a packet (40_sequencer.md R91, 42_shift_datapath.md R126, R129). -/
namespace Sys2Proof.Proofs
open Sys2Proof.Machine

/-- Settles O25: the cycle with the packet in the shift register is an active one, and not WAIT_CA's last. -/
theorem packetTransmissionStarts : Obligations.PacketTransmissionStarts := by
  unfold Obligations.PacketTransmissionStarts
  intro s upper lower hinv hs hc hr
  have hck : s.ck = false := by rw [hinv.ck_eq, hc]; rfl
  have hoe : s.dqOe = true := hinv.dqOe_of_waitCa hs
  have hcarried : carriedIn (.caReadLinear upper lower) s = s.placePacket (packetOf upper lower) :=
    if_pos ((packetStarts_iff s).2 ⟨hs, hc⟩)
  have hactive : active (s.placePacket (packetOf upper lower)) = true := by simp [active, hc]
  have hnextCk : nextCk s.inputs (s.placePacket (packetOf upper lower)) = true := by
    rw [nextCk_of_active (s := s.placePacket (packetOf upper lower)) hr
      (hinv.selected (by simp [hs])).anySelected hactive, State.placePacket_ck, hck]
    rfl
  have hrule (t : State) : stateStep s.inputs (phaseN s.inputs (s.placePacket (packetOf upper lower))) t = .ok t := by
    simp [stateStep, waitCaStep, lastCount, hs, hc]
  have hexec := exec_eq_runCycle (.caReadLinear upper lower) s
  rw [hcarried] at hexec
  refine ⟨_, _, packetOf upper lower, hexec.trans (runCycle_of_rule hr (hrule _)), encode_caReadLinear upper lower, rfl,
    rfl, hoe, ?_, ?_, ?_, ?_, ?_, ?_, ?_, ?_, ?_, ?_⟩ <;>
    simp [active_phaseN, hactive, hs, hc, hoe, hnextCk, latencyAfter, drivenBy]

end Sys2Proof.Proofs
end

section
/-! Who writes which register (10_state.md R22 to R27). -/
namespace Sys2Proof.Machine

/-- Only IDLE and WAIT_NEXT have a way into IDLE (R89, R102, R103). -/
theorem nextState_ne_idle {inp : Inputs} {s : State} (hidle : s.state ≠ .idle) (hnext : s.state ≠ .waitNext) :
    nextState inp s ≠ .idle := by
  intro h
  have hedge := edge_nextState inp s
  rw [h] at hedge
  generalize s.state = st at hedge hidle hnext
  cases hedge with
  | stay => exact hidle rfl
  | release => exact hnext rfl

/-- IDLE is left exactly when a request is pending (R89). -/
theorem nextState_of_idle {inp : Inputs} {s : State} (hs : s.state = .idle) :
    nextState inp s = .idle ↔ ¬ pending inp = true := by
  cases hp : pending inp <;> simp [nextState, hs, hp]

/-- Every chip-select vector of the table has N_CS bits, at most one of them set (R24). -/
theorem State.csInTable.at_most_one {s : State} (h : s.csInTable) :
    s.cs.width = s.params.nCs ∧
      ∀ j k, s.cs.bits.getLsbD j = true → s.cs.bits.getLsbD k = true → j = k := by
  unfold State.csInTable at h
  split at h
  next =>
    rw [h]
    exact ⟨rfl, fun j k hj _ => by simp [ChipSelects.none] at hj⟩
  next =>
    obtain ⟨-, hcs⟩ := h
    rw [hcs]
    refine ⟨rfl, fun j k hj hk => ?_⟩
    simp only [ChipSelects.onehot, BitVec.getLsbD_twoPow, Bool.and_eq_true, decide_eq_true_eq] at hj hk
    obtain ⟨-, rfl⟩ := hj
    obtain ⟨-, hk⟩ := hk
    exact hk

/-- Whether a cycle accepts a request does not depend on the shift register (R111). -/
@[simp] theorem accepted_carriedIn (i : Instr) (inp : Inputs) (s : State) :
    accepted inp (carriedIn i s) = accepted inp s := by
  obtain ⟨w, h⟩ := carriedIn_eq i s; rw [h]; rfl

/-- With the counter at 0 no packet starts. -/
theorem carriedIn_of_inactive {s : State} (hc : s.counter = 0) (i : Instr) : carriedIn i s = s := by
  cases i <;> simp [carriedIn, packetStarts, hc, Config.caLoad]

/-- The writers of the wait counter: IDLE, ACK_XFER and WAIT_NEXT (R23). -/
theorem nextWcount_eq (s : State) :
    nextWcount s = if s.state = .idle then 0 else if s.state = .ackXfer then 9
      else if s.state = .waitNext ∧ s.wcount ≠ 0 then s.wcount - 1 else s.wcount := by
  unfold nextWcount
  cases s.state <;> simp [Config.waitNextLoad]

/-- The writers of the shift register: IDLE's load, the clear of WAIT_LAT, and the shift (R26). -/
theorem nextSr_eq (inp : Inputs) (s : State) :
    nextSr inp s = if s.state = .idle ∧ pending inp = true then caPacket s.params inp.adr
      else if s.state = .waitLat ∧ s.counter = 1 then 0
      else if s.counter ≠ 0 then s.sr.extractLsb' 0 40 ++ inp.dqI
      else s.sr := by
  have hshifted : shifted inp s = if s.counter ≠ 0 then s.sr.extractLsb' 0 40 ++ inp.dqI else s.sr := by
    simp [shifted, active]
  unfold nextSr
  rw [hshifted]
  simp only [lastCount_iff]
  cases s.state <;> simp

/-- The writers of the counter: the loads of the rules, and the decrement, which stops at 0 (R22). -/
theorem nextCounter_eq (inp : Inputs) (s : State) :
    nextCounter inp s = if s.state = .idle then (if pending inp = true then 6 else 0)
      else if s.state = .waitCa ∧ s.counter = 1 then 2 * s.latency.setWidth 8 - 2
      else if s.state = .waitLat ∧ s.counter = 1 then 4
      else if s.state = .waitNext ∧ accepted inp s = true then 4
      else if s.counter ≠ 0 then s.counter - 1
      else 0 := by
  have hcounted : counted s = if s.counter ≠ 0 then s.counter - 1 else 0 := by
    unfold counted
    split
    next ha => rw [if_pos (by simpa [active] using ha)]
    next ha => rw [if_neg (by simpa [active] using ha), counter_eq_zero_of_inactive (by simpa using ha)]
  unfold nextCounter
  rw [hcounted]
  simp only [lastCount_iff]
  cases hs : s.state <;> simp [accepted, hs, Config.caLoad, Config.dataLoad]

end Sys2Proof.Machine

namespace Sys2Proof.Proofs
open Sys2Proof.Machine

/-- Settles O27: the chip-selects are the closed form's, by where the cycle goes, and the table bounds them. -/
theorem chipSelectWriters : Obligations.ChipSelectWriters := by
  unfold Obligations.ChipSelectWriters
  intro i s t hr h
  have hinv (hs : s.Inv) : t.Inv := hs.exec h
  obtain rfl := exec_eq_nextOf_of_next hr h
  have hcs := nextCs_eq (drivenBy i s.inputs) (carriedIn i s)
  rw [carriedIn_state, carriedIn_cs, carriedIn_params] at hcs
  refine ⟨fun hidle hnext => ?_, fun hs => ?_, fun hs => ?_, fun hs => ?_⟩
  · have hne := nextState_ne_idle (inp := drivenBy i s.inputs) (s := carriedIn i s) (by simpa) (by simpa)
    rw [if_neg hne, if_neg hidle] at hcs
    exact hcs
  · have hstay := nextState_of_idle (inp := drivenBy i s.inputs) (s := carriedIn i s) (by simpa)
    refine hcs.trans ?_
    by_cases hp : pending (drivenBy i s.inputs) = true
    · rw [if_neg (fun hidle => hstay.1 hidle hp), if_pos hs, if_pos hp]
    · rw [if_pos (hstay.2 hp), if_neg hp]
  · rw [if_neg (show ¬ s.state = .idle by simp [hs])] at hcs
    exact hcs
  · obtain ⟨-, -, htable, -⟩ := (State.inv_iff _).1 (hinv hs)
    obtain ⟨hwidth, hone⟩ := htable.at_most_one
    exact ⟨hwidth.trans (by simp [nextOf]), hone⟩

/-- Settles O29: each register of the closed form by the rule that writes it; a packet as carrier changes the shift
register alone, and only in an active cycle. -/
theorem registerWriters : Obligations.RegisterWriters := by
  unfold Obligations.RegisterWriters
  intro i s t hr h
  obtain rfl := exec_eq_nextOf_of_next hr h
  have hwcount := nextWcount_eq (carriedIn i s)
  have hsr := nextSr_eq (drivenBy i s.inputs) (carriedIn i s)
  have hcounter := nextCounter_eq (drivenBy i s.inputs) (carriedIn i s)
  simp only [carriedIn_state, carriedIn_wcount, carriedIn_counter, carriedIn_params, carriedIn_latency, drivenBy_dqI,
    accepted_carriedIn] at hwcount hsr hcounter
  refine ⟨?_, hwcount, hsr.trans ?_, hcounter, carriedIn_params i s, fun k => ?_⟩
  · show (if accepted _ _ = true then _ else _) = _
    rw [accepted_carriedIn, carriedIn_lastAdr]
  · by_cases hc : s.counter = 0
    · rw [carriedIn_of_inactive hc]
    · simp only [ne_eq, hc, not_false_eq_true, if_true]
  · rw [inputsAt_nextOf]
    exact State.inputsAt_congr (carriedIn_script i s) (carriedIn_cycle i s) (k + 1)

end Sys2Proof.Proofs
end

section
/-! WAIT_CA (40_sequencer.md R91, R93; 42_shift_datapath.md R126, R129). -/
namespace Sys2Proof.Machine

/-- The shifts of `j` cycles move the register up by `j` bytes (R125). -/
theorem getLsbD_srAfter (s : State) {j i : Nat} (hj : 8 * j ≤ i) (hi : i < 48) :
    (srAfter s j).getLsbD i = s.sr.getLsbD (i - 8 * j) := by
  induction j generalizing i with
  | zero => rfl
  | succ j ih =>
    rw [srAfter, getLsbD_shift _ _ hi, if_neg (by omega), ih (by omega) (by omega), Nat.sub_sub, Nat.mul_succ,
      Nat.add_comm 8]

/-- After `j` cycles the register's top byte is the `j`-th of its six (R126, R129). -/
theorem srAfter_topByte (s : State) {j : Nat} (hj : j < 6) :
    (srAfter s j).extractLsb' 40 8 = s.sr.extractLsb' (40 - 8 * j) 8 := by
  apply BitVec.eq_of_getLsbD_eq
  intro i hi
  have hindex : 40 + i - 8 * j = 40 - 8 * j + i := by omega
  simp only [BitVec.getLsbD_extractLsb', getLsbD_srAfter s (show 8 * j ≤ 40 + i by omega) (show 40 + i < 48 by omega),
    hindex]

/-- The shift register's course depends on the register and the bytes to come. -/
theorem srAfter_later {s t : State} {j : Nat} (hsr : t.sr = srAfter s j) (h : ∀ k, t.inputsAt k = s.inputsAt (k + j))
    (n : Nat) : srAfter t n = srAfter s (n + j) := by
  induction n with
  | zero => simpa [srAfter] using hsr
  | succ n ih =>
    have hindex : n + 1 + j = (n + j) + 1 := by omega
    rw [hindex, srAfter, srAfter, ih, h]

/-- Two shifts put two bytes at the low end. -/
theorem srAfter_two_low (s : State) :
    (srAfter s 2).extractLsb' 0 16 = (s.inputsAt 0).dqI ++ (s.inputsAt 1).dqI := by
  apply BitVec.eq_of_getLsbD_eq
  intro i hi
  refine Eq.trans ?_ (BitVec.getLsbD_append ..).symm
  rw [BitVec.getLsbD_extractLsb', Nat.zero_add, srAfter, getLsbD_shift _ _ (by omega), srAfter, decide_eq_true hi,
    Bool.true_and]
  by_cases hlow : i < 8
  · rw [if_pos hlow, if_pos hlow]
  · rw [if_neg hlow, if_neg hlow, getLsbD_shift _ _ (by omega), if_pos (by omega)]

/-- Six shifts leave the six bytes sampled (R91, R129). -/
theorem srAfter_six {s t : State} (ht : Within s 2 t) :
    srAfter s 6 = (s.inputsAt 0).dqI ++ (s.inputsAt 1).dqI ++ wordSampled 2 s := by
  rw [← srAfter_later ht.sr ht.inputs 4, srAfter_four, ht.sr, srAfter_two_low, wordSampled_later ht.inputs]

/-- What the last cycle of WAIT_CA writes (R91). -/
theorem nextOf_of_waitCa_last {s : State} (hs : s.state = .waitCa) (hc : s.counter = 1) (inp : Inputs) :
    (nextOf inp s).state = .waitLat ∧ (nextOf inp s).counter = 2 * s.latency.setWidth 8 - 2 ∧
      (nextOf inp s).dqOe = false ∧ (nextOf inp s).cs = s.cs ∧ (nextOf inp s).lastAdr = s.lastAdr ∧
      (nextOf inp s).sr = s.sr.extractLsb' 0 40 ++ inp.dqI := by
  have hl : lastCount s = true := (lastCount_iff s).2 hc
  have ha : active s = true := by simp [active, hc]
  simp [nextOf, nextState, nextCounter, nextDqOe, nextCs, nextLastAdr, nextSr, accepted, shifted, hs, hl, ha]

end Sys2Proof.Machine

namespace Sys2Proof.Proofs
open Sys2Proof.Machine

/-- Settles O16: while the counter is above 1 the phase goes on, its register a byte further up in each cycle; the last
cycle faults or loads by the latency it reads. -/
theorem waitCaPhase : Obligations.WaitCaPhase := by
  unfold Obligations.WaitCaPhase
  intro s hinv hs hc hr
  have hcn : s.counter.toNat = 6 := congrArg BitVec.toNat hc
  have hsel : anySelected s = true := (hinv.selected (by simp [hs])).anySelected
  have hoe : s.dqOe = true := hinv.dqOe_of_waitCa hs
  have hwithin {j : Nat} (hj : j < 6) : ∃ t, Within s j t :=
    exists_within (hs ▸ .waitCa) hsel (by rwa [hcn]) (by rwa [hcn])
  constructor
  · intro j hj
    obtain ⟨t, ht⟩ := hwithin hj
    refine ⟨t, ht.run, ht.state.trans hs, by rw [ht.counter, hcn], ht.dqOe.trans hoe, ?_⟩
    rw [dqOut, ht.sr, srAfter_topByte s hj]
  · obtain ⟨v, hv⟩ := hwithin (j := 2) (by decide)
    obtain ⟨u, hu⟩ := hwithin (j := 5) (by decide)
    have hus : u.state = .waitCa := hu.state.trans hs
    have huc : u.counter = 1 := counter_eq_one_of_toNat (by have := hu.counter; omega)
    have hur : u.inputs.rst = false := by rw [hu.inputs_eq]; exact hr 5 (by decide)
    refine ⟨u, hu.run, fun hl => ?_, fun hl => ?_⟩
    · rw [step_eq_runCycle, runCycle_latencyZero (by simp [raisesLatencyZero, hur, hus, huc, hl]), hl, hu.lastAdr]
    · obtain ⟨hstate, hcounter, hdqOe, hcs, hla, hsr⟩ := nextOf_of_waitCa_last hus huc u.inputs
      refine ⟨_, step_closed hur (faultFree_of_waitCa hus hl _), hstate, by rw [hcounter, toNat_latencyLoad hl], hdqOe,
        hcs.trans hu.cs, hla.trans hu.lastAdr, ?_⟩
      rw [hsr, hu.sr, hu.inputs_eq]
      exact srAfter_six hv

end Sys2Proof.Proofs
end

section
/-! Runs of cycles: what holds along them, and runs without an acknowledgment (40_sequencer.md section 8). -/
namespace Sys2Proof.Machine

theorem runCycles_succ_eq_next {n : Nat} {s t : State} :
    runCycles (n + 1) s = .next t ↔ ∃ u, step s = .next u ∧ runCycles n u = .next t := by
  rw [runCycles_succ]
  cases step s <;> simp

theorem runCycles_one {s t : State} (h : step s = .next t) : runCycles 1 s = .next t :=
  runCycles_succ_eq_next.2 ⟨t, h, rfl⟩

/-- A step that answers leaves the inputs moved up by one. -/
theorem inputsAt_of_step {s t : State} (h : step s = .next t) (k : Nat) : t.inputsAt k = s.inputsAt (k + 1) := by
  rw [step_eq_runCycle] at h
  obtain ⟨hscript, hcycle, -⟩ := runCycle_keeps h
  exact State.inputsAt_tail hscript hcycle k

/-- After a run of `n` cycles the inputs have moved up by `n`. -/
theorem inputsAt_of_runCycles {n : Nat} {s t : State} (h : runCycles n s = .next t) (k : Nat) :
    t.inputsAt k = s.inputsAt (k + n) := by
  induction n generalizing s with
  | zero => cases h; rfl
  | succ n ih =>
    obtain ⟨u, hstep, hrun⟩ := runCycles_succ_eq_next.1 h
    rw [ih hrun, inputsAt_of_step hstep, Nat.add_assoc]

/-- The parameters never change. -/
theorem params_of_runCycles {n : Nat} {s t : State} (h : runCycles n s = .next t) : t.params = s.params := by
  induction n generalizing s with
  | zero => cases h; rfl
  | succ n ih =>
    obtain ⟨u, hstep, hrun⟩ := runCycles_succ_eq_next.1 h
    rw [step_eq_runCycle] at hstep
    obtain ⟨-, -, hparams, -⟩ := runCycle_keeps hstep
    rw [ih hrun, hparams]

/-- The invariant holds along every run. -/
theorem State.Inv.runCycles {n : Nat} {s t : State} (hinv : s.Inv) (h : runCycles n s = .next t) : t.Inv := by
  induction n generalizing s with
  | zero => cases h; exact hinv
  | succ n ih =>
    obtain ⟨u, hstep, hrun⟩ := runCycles_succ_eq_next.1 h
    exact ih (hinv.exec (i := s.busOperation) hstep) hrun

/-- What a run leaves of the cycles without reset. -/
theorem NoReset.after {m n : Nat} {s t : State} (h : NoReset (m + n) s) (hrun : runCycles m s = .next t) :
    NoReset n t := fun k hk => by
  rw [inputsAt_of_runCycles hrun]
  exact h (k + m) (by omega)

/-- What a run leaves of the cycles without a control write. -/
theorem NoControlWrite.after {m n : Nat} {s t : State} (h : NoControlWrite (m + n) s)
    (hrun : runCycles m s = .next t) : NoControlWrite n t := fun k hk => by
  rw [inputsAt_of_runCycles hrun]
  exact h (k + m) (by omega)

/-- A request to come comes nearer along a run. -/
theorem Requests.after {m k : Nat} {adr : WordAdr} {s t : State} (h : Requests (k + m) adr s)
    (hrun : runCycles m s = .next t) : Requests k adr t := by
  rw [Requests, inputsAt_of_runCycles hrun]
  exact h

/-- Without reset and control writes the latency stays (R151). -/
theorem latency_of_runCycles {n : Nat} {s t : State} (hreset : NoReset n s) (hwrite : NoControlWrite n s)
    (h : runCycles n s = .next t) : t.latency = s.latency := by
  induction n generalizing s with
  | zero => cases h; rfl
  | succ n ih =>
    obtain ⟨u, hstep, hrun⟩ := runCycles_succ_eq_next.1 h
    have hlatency : u.latency = s.latency := by
      rw [step_eq_runCycle] at hstep
      rw [eq_nextOf_of_next (hreset 0 (by omega)) hstep]
      exact if_neg (by simp [hwrite 0 (by omega)])
    rw [ih (NoReset.after (m := 1) (fun k hk => hreset k (by omega)) (runCycles_one hstep))
      (NoControlWrite.after (m := 1) (fun k hk => hwrite k (by omega)) (runCycles_one hstep)) hrun, hlatency]

/-- The run of `n` cycles from `s` ends in `t`, and none of its cycles acknowledges. -/
structure Reaches (n : Nat) (s t : State) : Prop where
  run : runCycles n s = .next t
  noAck : ∀ k, k < n → ∃ u, runCycles k s = .next u ∧ u.state ≠ .ackXfer

/-- One cycle outside ACK_XFER. -/
theorem Reaches.one {s t : State} (hs : s.state ≠ .ackXfer) (h : step s = .next t) : Reaches 1 s t where
  run := runCycles_one h
  noAck k hk := by
    obtain rfl : k = 0 := by omega
    exact ⟨s, rfl, hs⟩

/-- Runs without an acknowledgment, one after the other. -/
theorem Reaches.trans {m n : Nat} {s t u : State} (h : Reaches m s t) (h' : Reaches n t u) : Reaches (m + n) s u where
  run := (runCycles_add h.run n).trans h'.run
  noAck k hk := by
    by_cases hkm : k < m
    · exact h.noAck k hkm
    · obtain ⟨v, hrun, hv⟩ := h'.noAck (k - m) (by omega)
      have hadd := runCycles_add h.run (k - m)
      rw [Nat.add_sub_cancel' (by omega)] at hadd
      exact ⟨v, hadd.trans hrun, hv⟩

/-- With a request pending a step is BUS_READ's cycle (R136). -/
theorem step_of_requests {s : State} {adr : WordAdr} (h : Requests 0 adr s) : step s = exec (.busRead adr) s := by
  obtain ⟨hp, hadr⟩ := h
  obtain ⟨hcyc, hstb⟩ := (pending_iff _).1 hp
  have hop : s.busOperation = .busRead adr := by
    rw [State.busOperation, breqOf, decodeBreq_fields, State.inputs_eq, hcyc, hstb, hadr]
    rfl
  rw [step, hop]

/-- Without a request a step is the cycle of one of the BUS_NOREQ rows (R137). -/
theorem step_of_no_request {s : State} (h : pending s.inputs = false) :
    ∃ (i : Instr) (stb : Bool) (adr : WordAdr),
      (i = .busNoreqCyc stb adr ∨ i = .busNoreqStb adr) ∧ step s = exec i s := by
  have hop : s.busOperation =
      if s.inputs.cyc then (if s.inputs.stb then .busRead s.inputs.adr else .busNoreqStb s.inputs.adr)
      else .busNoreqCyc s.inputs.stb s.inputs.adr := decodeBreq_fields ..
  refine ⟨s.busOperation, s.inputs.stb, s.inputs.adr, ?_, rfl⟩
  rw [hop]
  cases hcyc : s.inputs.cyc with
  | false => exact .inl rfl
  | true =>
    have hstb : s.inputs.stb = false := by simpa [pending, hcyc] using h
    rw [hstb]
    exact .inr rfl

/-! ### The phases of a read -/

/-- SHIFT_DAT receives a word in four cycles and ends in ACK_XFER (R96, R49). -/
theorem reaches_ack_of_shiftDat {s : State} (hinv : s.Inv) (hs : s.state = .shiftDat) (hc : s.counter = 4)
    (hr : NoReset 4 s) :
    ∃ t, Reaches 4 s t ∧ t.state = .ackXfer ∧ datR t = wordSampled 0 s ∧ t.cs = s.cs ∧ t.lastAdr = s.lastAdr := by
  obtain ⟨hphase, -⟩ := Proofs.shiftDatPhase
  obtain ⟨hwithin, t, hrun, hstate, -, -, hsr, hcs, hla, -⟩ := hphase s hinv hs hc hr
  refine ⟨t, ⟨hrun, fun k hk => ?_⟩, hstate, ?_, hcs, hla⟩
  · obtain ⟨u, -, hu, -, hus, -⟩ := hwithin k hk
    exact ⟨u, hu, by simp [hus]⟩
  · rw [datR, hsr]
    exact BitVec.extractLsb'_append_eq_right

/-- WAIT_LAT waits as many cycles as its counter says and ends in SHIFT_DAT (R94). -/
theorem reaches_shiftDat_of_waitLat {s : State} {n : Nat} (hinv : s.Inv) (hs : s.state = .waitLat)
    (hc : s.counter.toNat = n) (hn : 1 ≤ n) (hr : NoReset n s) :
    ∃ t, Reaches n s t ∧ t.state = .shiftDat ∧ t.counter = 4 ∧ t.cs = s.cs ∧ t.lastAdr = s.lastAdr := by
  obtain ⟨hphase, -⟩ := Proofs.waitLatPhase
  obtain ⟨hwithin, -, t, hrun, hstate, hcounter, -, -, hcs, hla⟩ := hphase s n hinv hs hc hn hr
  refine ⟨t, ⟨hrun, fun k hk => ?_⟩, hstate, hcounter, hcs, hla⟩
  obtain ⟨u, hu, hus, -⟩ := hwithin k hk
  exact ⟨u, hu, by simp [hus]⟩

/-- WAIT_CA sends the packet in six cycles and ends in WAIT_LAT with the load of a latency that is not written before
its exit (R91, R92). -/
theorem reaches_waitLat_of_waitCa {s : State} (hinv : s.Inv) (hs : s.state = .waitCa) (hc : s.counter = 6)
    (hl : s.latency ≠ 0) (hw : NoControlWrite 5 s) (hr : NoReset 6 s) :
    ∃ t, Reaches 6 s t ∧ t.state = .waitLat ∧ t.counter.toNat = 2 * s.latency.toNat - 2 ∧ t.cs = s.cs ∧
      t.lastAdr = s.lastAdr := by
  obtain ⟨hwithin, u, hrun, -, hexit⟩ := Proofs.waitCaPhase s hinv hs hc hr
  have hlatency : u.latency = s.latency := latency_of_runCycles (fun k hk => hr k (by omega)) hw hrun
  rw [hlatency] at hexit
  obtain ⟨t, hstep, hstate, hcounter, -, hcs, hla, -⟩ := hexit hl
  refine ⟨t, ⟨(runCycles_last hrun).trans hstep, fun k hk => ?_⟩, hstate, hcounter, hcs, hla⟩
  obtain ⟨v, hv, hvs, -⟩ := hwithin k hk
  exact ⟨v, hv, by simp [hvs]⟩

/-- A mapped request pending in IDLE is acknowledged 2L + 9 cycles later and not before (R105). -/
theorem reaches_ack_of_idle {s : State} {adr : WordAdr} (hinv : s.Inv) (hs : s.state = .idle)
    (hreq : Requests 0 adr s) (hmapped : dev s.params adr < s.params.nCs) (hl : 2 ≤ s.latency)
    (hw : NoControlWrite 6 s) (hr : NoReset (2 * s.latency.toNat + 9) s) :
    ∃ t, Reaches (2 * s.latency.toNat + 9) s t ∧ t.state = .ackXfer ∧
      datR t = wordSampled (2 * s.latency.toNat + 5) s ∧ t.lastAdr = adr ∧
      t.cs = ChipSelects.onehot s.params.nCs (dev s.params adr) := by
  have hlat : 2 ≤ s.latency.toNat := by bv_omega
  -- IDLE accepts
  obtain ⟨hread, -⟩ := Proofs.idleStep s hinv hs (hr 0 (by omega))
  obtain ⟨⟨a, hexec, hastate, hacs, -, -, hacounter, hala, -, halatency, -⟩, -⟩ := hread adr hmapped
  have ha : Reaches 1 s a := .one (by simp [hs]) ((step_of_requests hreq).trans hexec)
  have halat : a.latency = s.latency :=
    latency_of_runCycles (fun k hk => hr k (by omega)) (fun k hk => hw k (by omega)) ha.run
  -- the packet, the latency, the word
  obtain ⟨b, hb, hbstate, hbcounter, hbcs, hbla⟩ := reaches_waitLat_of_waitCa (hinv.runCycles ha.run) hastate hacounter
    (by rw [halat]; bv_omega) (NoControlWrite.after (m := 1) hw ha.run)
    (NoReset.after (m := 1) (fun k hk => hr k (by omega)) ha.run)
  rw [halat] at hbcounter
  have hab := ha.trans hb
  obtain ⟨c, hc, hcstate, hccounter, hccs, hcla⟩ := reaches_shiftDat_of_waitLat (hinv.runCycles hab.run) hbstate
    hbcounter (by omega) (NoReset.after (fun k hk => hr k (by omega)) hab.run)
  have habc := hab.trans hc
  obtain ⟨d, hd, hdstate, hdata, hdcs, hdla⟩ := reaches_ack_of_shiftDat (hinv.runCycles habc.run) hcstate hccounter
    (NoReset.after (fun k hk => hr k (by omega)) habc.run)
  have hlength : 1 + 6 + (2 * s.latency.toNat - 2) + 4 = 2 * s.latency.toNat + 9 := by omega
  refine ⟨d, hlength ▸ habc.trans hd, hdstate, ?_, ?_, ?_⟩
  · rw [hdata, wordSampled_later (inputsAt_of_runCycles habc.run)]
    congr 1
    omega
  · rw [hdla, hcla, hbla, hala]
  · rw [hdcs, hccs, hbcs, hacs]

/-- A continuation pending in WAIT_NEXT is acknowledged five cycles later and not before (R106). -/
theorem reaches_ack_of_continuation {s : State} {adr : WordAdr} (hinv : s.Inv) (hs : s.state = .waitNext)
    (hreq : Requests 0 adr s) (hcont : cont adr s.lastAdr = true) (hr : NoReset 5 s) :
    ∃ t, Reaches 5 s t ∧ t.state = .ackXfer ∧ datR t = wordSampled 1 s ∧ t.lastAdr = adr ∧ t.cs = s.cs := by
  obtain ⟨hread, -⟩ := Proofs.waitNextStep s hinv hs (hr 0 (by decide))
  obtain ⟨a, hexec, hastate, hacounter, hala, -, hacs, -⟩ := hread adr hcont
  have ha : Reaches 1 s a := .one (by simp [hs]) ((step_of_requests hreq).trans hexec)
  obtain ⟨b, hb, hbstate, hdata, hbcs, hbla⟩ := reaches_ack_of_shiftDat (hinv.runCycles ha.run) hastate hacounter
    (NoReset.after (m := 1) hr ha.run)
  exact ⟨b, ha.trans hb, hbstate, hdata.trans (wordSampled_later (inputsAt_of_runCycles ha.run) 0), hbla.trans hala,
    hbcs.trans hacs⟩

end Sys2Proof.Machine

namespace Sys2Proof.Proofs
open Sys2Proof.Machine

/-- Settles O34: IDLE's cycle, the six of the packet, the 2L - 2 of the latency and the four of the word. -/
theorem freshReadIsAcknowledged : Obligations.FreshReadIsAcknowledged := by
  unfold Obligations.FreshReadIsAcknowledged
  intro s adr hinv hs hreq hmapped hl hw hr
  obtain ⟨t, ht, hstate, hdata, hla, hcs⟩ := reaches_ack_of_idle hinv hs hreq hmapped hl hw hr
  exact ⟨⟨t, ht.run, hstate, hdata, hla, hcs⟩, ht.noAck⟩

/-- Settles O35: the accepting cycle and the four of the word. -/
theorem continuationIsAcknowledged : Obligations.ContinuationIsAcknowledged := by
  unfold Obligations.ContinuationIsAcknowledged
  intro s adr hinv hs hreq hcont hr
  obtain ⟨t, ht, hstate, hdata, hla, hcs⟩ := reaches_ack_of_continuation hinv hs hreq hcont hr
  exact ⟨⟨t, ht.run, hstate, hdata, hla, hcs⟩, ht.noAck⟩

/-- Settles O36: WAIT_NEXT releases the chip-selects, and the request still pending is a fresh read's. -/
theorem restartIsAcknowledged : Obligations.RestartIsAcknowledged := by
  unfold Obligations.RestartIsAcknowledged
  intro s adr hinv hs hreq hreq' hcont hmapped hl hw hr
  obtain ⟨-, hrestart, -⟩ := waitNextStep s hinv hs (hr 0 (by omega))
  obtain ⟨a, hexec, hastate, hacs, -⟩ := hrestart adr hcont
  have ha : runCycles 1 s = .next a := runCycles_one ((step_of_requests hreq).trans hexec)
  have halat : a.latency = s.latency :=
    latency_of_runCycles (fun k hk => hr k (by omega)) (fun k hk => hw k (by omega)) ha
  have hparams : a.params = s.params := params_of_runCycles ha
  obtain ⟨t, ht, hstate, hdata, hla, -⟩ := reaches_ack_of_idle (hinv.runCycles ha) hastate
    (Requests.after (k := 0) hreq' ha) (by rwa [hparams]) (by rwa [halat]) (NoControlWrite.after (m := 1) hw ha)
    (NoReset.after (m := 1) (fun k hk => hr k (by rw [halat] at hk; omega)) ha)
  rw [halat] at ht hdata
  refine ⟨⟨a, ha, hastate, hacs⟩, t, ?_, hstate, hdata.trans (wordSampled_later (inputsAt_of_runCycles ha) _), hla⟩
  have hrun := (runCycles_add ha (2 * s.latency.toNat + 9)).trans ht.run
  rwa [Nat.add_comm 1] at hrun

/-- Settles O37: one cycle opens the window, and the next word of the page is a continuation. -/
theorem sequentialReadsSixApart : Obligations.SequentialReadsSixApart := by
  unfold Obligations.SequentialReadsSixApart
  intro s hinv hs hpage hreq hr
  obtain ⟨hack, -⟩ := ackXferStep
  obtain ⟨a, -, hexec, hastate, -, -, hacs, -, -, hala, -⟩ := hack s.busOperation s hinv hs (hr 0 (by decide))
  have ha : runCycles 1 s = .next a := runCycles_one hexec
  have hcont : cont (s.lastAdr + 1) a.lastAdr = true := by
    rw [hala]
    exact (continuationIsTheNextWordOfThePage _ _).2 ⟨rfl, hpage⟩
  obtain ⟨t, ht, hstate, hdata, hla, hcs⟩ := reaches_ack_of_continuation (hinv.runCycles ha) hastate
    (Requests.after (k := 0) hreq ha) hcont (NoReset.after (m := 1) hr ha)
  exact ⟨t, (runCycles_add ha 5).trans ht.run, hstate, hla,
    hdata.trans (wordSampled_later (inputsAt_of_runCycles ha) 1), hcs.trans hacs⟩

end Sys2Proof.Proofs
end

section
/-! The wait window without a request, and the hang of latency 1 (40_sequencer.md R95, R99, R103). -/
namespace Sys2Proof.Machine

/-- `t` is the state `j` cycles from `s`, which is in WAIT_NEXT, the window still open. -/
structure WindowOpen (s : State) (j : Nat) (t : State) : Prop where
  run : runCycles j s = .next t
  state : t.state = .waitNext
  wcount : t.wcount.toNat = s.wcount.toNat - j
  cs : t.cs = s.cs

/-- The cycle after `j` cycles of an open window, if nothing is requested in it (R100, R103). -/
theorem WindowOpen.next {s t : State} {j : Nat} (hinv : s.Inv) (h : WindowOpen s j t)
    (hr : (s.inputsAt j).rst = false) (hp : pending (s.inputsAt j) = false) :
    ∃ u, runCycles (j + 1) s = .next u ∧ u.wcount = t.wcount - 1 ∧
      u.state = (if t.wcount = 1 then .idle else .waitNext) ∧
      u.cs = (if t.wcount = 1 then ChipSelects.none s.params.nCs else s.cs) := by
  have hinputs : t.inputs = s.inputsAt j := by rw [State.inputs_eq, inputsAt_of_runCycles h.run, Nat.zero_add]
  obtain ⟨i, stb, adr, hi, hstep⟩ := step_of_no_request (hinputs ▸ hp)
  obtain ⟨-, -, hquiet⟩ := Proofs.waitNextStep t (hinv.runCycles h.run) h.state (hinputs ▸ hr)
  obtain ⟨u, hexec, hstate, hcs, -, -, hwcount, -⟩ := hquiet i stb adr hi
  rw [params_of_runCycles h.run, h.cs] at hcs
  exact ⟨u, (runCycles_last h.run).trans (hstep.trans hexec), hwcount, hstate, hcs⟩

/-- Without a request the window stays open for as many cycles as the wait counter says, less one (R99, R100). -/
theorem exists_windowOpen {s : State} {n : Nat} (hinv : s.Inv) (hs : s.state = .waitNext) (hr : NoReset n s)
    (hp : NoRequest n s) (hn : n < s.wcount.toNat) : ∃ t, WindowOpen s n t := by
  induction n with
  | zero => exact ⟨s, rfl, hs, rfl, rfl⟩
  | succ n ih =>
    obtain ⟨t, ht⟩ := ih (fun k hk => hr k (by omega)) (fun k hk => hp k (by omega)) (by omega)
    obtain ⟨u, hrun, hwcount, hstate, hcs⟩ := ht.next hinv (hr n (by omega)) (hp n (by omega))
    have htw := ht.wcount
    have hopen : t.wcount ≠ 1 := by bv_omega
    rw [if_neg hopen] at hstate hcs
    exact ⟨u, hrun, hstate, by rw [hwcount]; bv_omega, hcs⟩

/-- A cycle of WAIT_LAT with the counter at 0 and the clock low writes no register but the latency (R95). -/
theorem nextOf_of_hang {inp : Inputs} {s : State} (hs : s.state = .waitLat) (hr : inp.rst = false) (hc : s.counter = 0)
    (hck : s.ck = false) : nextOf inp s = (s.writeLatency (latencyAfter inp s)).endCycle (outputsOf inp s) :=
  nextOf_of_rule hr (by simp [active, hc]) (by rw [nextCk_of_low inp hc hck, hck])
    (by simp [stateStep, waitLatStep, lastCount, hs, hc]) rfl

end Sys2Proof.Machine

namespace Sys2Proof.Proofs
open Sys2Proof.Machine

/-- Settles O38: ACK_XFER opens the window at 9, which is open for nine cycles and expires in the last of them. -/
theorem windowExpiresAfterNineCycles : Obligations.WindowExpiresAfterNineCycles := by
  unfold Obligations.WindowExpiresAfterNineCycles
  intro s hinv hs hr hp
  obtain ⟨hack, -⟩ := ackXferStep
  obtain ⟨a, -, hexec, hastate, hawcount, -, hacs, -⟩ := hack s.busOperation s hinv hs (hr 0 (by decide))
  have ha : runCycles 1 s = .next a := runCycles_one hexec
  have hainv : a.Inv := hinv.runCycles ha
  have hatoNat : a.wcount.toNat = 9 := congrArg BitVec.toNat hawcount
  have har : NoReset 9 a := NoReset.after (m := 1) hr ha
  have hap : NoRequest 9 a := fun k hk => by
    rw [inputsAt_of_runCycles ha]
    exact hp (k + 1) (by omega) (by omega)
  have hopen {j : Nat} (hj : j < 9) : ∃ t, WindowOpen a j t :=
    exists_windowOpen hainv hastate (fun k hk => har k (by omega)) (fun k hk => hap k (by omega)) (by omega)
  constructor
  · intro k hk hk'
    obtain ⟨t, ht⟩ := hopen (j := k - 1) (by omega)
    have hrun := (runCycles_add ha (k - 1)).trans ht.run
    rw [Nat.add_sub_cancel' hk] at hrun
    exact ⟨t, hrun, ht.state, by have := ht.wcount; omega, ht.cs.trans hacs⟩
  · obtain ⟨t, ht⟩ := hopen (j := 8) (by decide)
    obtain ⟨u, hrun, hwcount, hstate, hcs⟩ := ht.next hainv (har 8 (by decide)) (hap 8 (by decide))
    have hlast : t.wcount = 1 := BitVec.eq_of_toNat_eq (by rw [ht.wcount, hatoNat]; rfl)
    rw [if_pos hlast] at hstate hcs
    rw [params_of_runCycles ha] at hcs
    exact ⟨u, (runCycles_add ha 9).trans hrun, hstate, hcs, by rw [hwcount, hlast]; rfl⟩

/-- Settles O39: each cycle writes no register but the latency, so the next one is of the same kind. -/
theorem hangLastsUntilReset : Obligations.HangLastsUntilReset := by
  unfold Obligations.HangLastsUntilReset
  intro s n hinv hs hc hr
  have hck : s.ck = false := by rw [hinv.ck_eq, hc]; rfl
  clear hinv
  induction n generalizing s with
  | zero => exact ⟨s, rfl, hs, hc, rfl, rfl, hck, rfl, rfl, rfl⟩
  | succ n ih =>
    have hr0 : s.inputs.rst = false := hr 0 (by omega)
    have hstep := step_closed hr0 (faultFree_of_ne (by simp [hs]) (by simp [hs]) s.inputs)
    rw [nextOf_of_hang hs hr0 hc hck] at hstep
    rw [runCycles_succ_of_next hstep]
    exact ih _ hs hc (fun k hk => by rw [inputsAt_of_step hstep]; exact hr (k + 1) (by omega)) hck

end Sys2Proof.Proofs
end
